-- ==== Sys2Proof/Word.lean ====
section
/-! DEFINITION. The word types of the ARM-subset core and the narrowing of an exact result to a width. -/

namespace Sys2Proof

/-- A byte of data memory (20_memory.md R44). -/
abbrev Byte := BitVec 8

/-- A 32-bit instruction word; bit 31 is the most significant (00_scope.md R8, R10). -/
abbrev InstrWord := BitVec 32

/-- A value of the program counter: a word address 0 to 511 (10_state.md R25). -/
abbrev WordAddr := BitVec 9

/-- A register number, the value of a field Rn, Rd or Rm (10_state.md R20). -/
abbrev RegNum := BitVec 4

end Sys2Proof
end

