-- ==== Sys2Proof/Config.lean ====
section
/-! DEFINITION. The parameters the spec leaves open (00_scope.md R9, 92_eei_decisions.md D1, D7, D19, D21, D24).
They are fixed for one machine and no step changes them. A machine's State carries its own (log entry 2), so a
statement about every state holds for every value of every parameter. -/

namespace Sys2Proof

/-- J_BEQ_OVERLAP: what the decoder makes of the 512 words that are J and BEQ R0,R0 at once (30_encoding.md R79). -/
inductive JBeqOverlap where
  /-- The words are refused (the spec's default). -/
  | refuse
  /-- The words are J. -/
  | j
  /-- The words are BEQ, and the machine has no J. -/
  | beq
  deriving DecidableEq, Repr

/-- BL_LINK: what BL writes (42_branch.md R142). -/
inductive BlLink where
  /-- BL writes the address of the next instruction to register 14 (the spec's default). -/
  | r14Next
  /-- BL is refused. -/
  | refuse
  deriving DecidableEq, Repr

/-- The configuration of one machine (00_scope.md R9). -/
structure Config where
  /-- XLEN, the width in bits of a general register and of the word LDR and STR move (10_state.md R21). -/
  xlen : Nat
  /-- DMEM_BYTES, the size of data memory in bytes (20_memory.md R46). -/
  dmemBytes : Nat
  /-- RESET_PC, the word address of the first instruction (70_reset_and_hazards.md R190). -/
  resetPc : WordAddr
  /-- J_BEQ_OVERLAP (30_encoding.md R79). -/
  jBeqOverlap : JBeqOverlap
  /-- BL_LINK (42_branch.md R142). -/
  blLink : BlLink
  deriving DecidableEq, Repr

/-- WORD_BYTES = XLEN/8 (00_scope.md R9). -/
def Config.wordBytes (c : Config) : Nat := c.xlen / 8

/-- What the spec asks of XLEN: a multiple of 8 and at least 16, so that a register can hold a 9-bit pc and a
12-bit offset (00_scope.md R9). -/
abbrev Config.Valid (c : Config) : Prop := c.xlen % 8 = 0 ∧ 16 ≤ c.xlen

end Sys2Proof
end

