-- ==== Sys2Proof/Machine/Launch.lean ====
section
/-! DEFINITION. The launch parameters State.reset uses (00_scope.md R9, 70_reset_and_hazards.md R190 to R194). -/

namespace Sys2Proof.Machine

/-- The configuration of State.reset: XLEN 32, the spec's reference value (log entry 3); DMEM_BYTES 1024, the convention of
95_test_vectors.md (log entry 4); RESET_PC, J_BEQ_OVERLAP and BL_LINK at the spec's defaults (log entries 5, 6, 7). -/
def launchConfig : Config where
  xlen := 32
  dmemBytes := 1024
  resetPc := 0
  jBeqOverlap := .refuse
  blLink := .r14Next

/-- DESIGN CHOICE, unsafe (log entry 1): what a register to which InitRegs gives no value holds at reset. The spec states no
value (R191). -/
def unwrittenRegister : Nat := 0

end Sys2Proof.Machine
end

