-- ==== Sys2Proof/Syntax.lean ====
section
/-! DEFINITION. The instructions: one constructor per row of spec/opcode_table.json. The constructor's fields are the row's
fields, the ignored ones among them (S, rot, bits [11:4]), so that an instruction determines its word (log entry 26). -/

namespace Sys2Proof

/-- The fields of format DPI (30_encoding.md R64). -/
structure DpiFields where
  /-- S, inst[20], ignored (R67). -/
  s : BitVec 1
  /-- Rn, inst[19:16]. -/
  rn : RegNum
  /-- Rd, inst[15:12]. -/
  rd : RegNum
  /-- rot, inst[11:8], ignored (R68). -/
  rot : BitVec 4
  /-- imm8, inst[7:0]. -/
  imm8 : BitVec 8
  deriving DecidableEq, Repr

/-- The fields of format DPR (30_encoding.md R65). -/
structure DprFields where
  /-- S, inst[20], ignored (R67). -/
  s : BitVec 1
  /-- Rn, inst[19:16]. -/
  rn : RegNum
  /-- Rd, inst[15:12]. -/
  rd : RegNum
  /-- inst[11:4], ignored (R65, R69). -/
  ignored : BitVec 8
  /-- Rm, inst[3:0]. -/
  rm : RegNum
  deriving DecidableEq, Repr

/-- The fields of MOV's immediate row: format DPI with Rn fixed at 0000 (30_encoding.md R84). -/
structure MovImmFields where
  /-- S, inst[20], ignored (R67). -/
  s : BitVec 1
  /-- Rd, inst[15:12]. -/
  rd : RegNum
  /-- rot, inst[11:8], ignored (R68). -/
  rot : BitVec 4
  /-- imm8, inst[7:0]. -/
  imm8 : BitVec 8
  deriving DecidableEq, Repr

/-- The fields of MOV's register row: format DPR with Rn fixed at 0000 (30_encoding.md R84). -/
structure MovRegFields where
  /-- S, inst[20], ignored (R67). -/
  s : BitVec 1
  /-- Rd, inst[15:12]. -/
  rd : RegNum
  /-- inst[11:4], ignored (R65, R69). -/
  ignored : BitVec 8
  /-- Rm, inst[3:0]. -/
  rm : RegNum
  deriving DecidableEq, Repr

/-- The fields of format RRR (30_encoding.md R70). -/
structure RrrFields where
  /-- Rn, inst[19:16]: the value shifted, or the left side of the comparison. -/
  rn : RegNum
  /-- Rd, inst[15:12]. -/
  rd : RegNum
  /-- Rm, inst[3:0]: the shift amount, or the right side of the comparison. -/
  rm : RegNum
  deriving DecidableEq, Repr

/-- The fields of format LSI (30_encoding.md R71). -/
structure LsiFields where
  /-- U, inst[23]: 1 adds the offset, 0 subtracts it. -/
  u : BitVec 1
  /-- Rn, inst[19:16]: the base register. -/
  rn : RegNum
  /-- Rd, inst[15:12]: the destination of LDR, the source of STR. -/
  rd : RegNum
  /-- imm12, inst[11:0]: an unsigned byte offset. -/
  imm12 : BitVec 12
  deriving DecidableEq, Repr

/-- The fields of format CB16 (30_encoding.md R74); Rn and Rm stand elsewhere than in DPR and RRR. -/
structure Cb16Fields where
  /-- Rn, inst[23:20]. -/
  rn : RegNum
  /-- Rm, inst[19:16]. -/
  rm : RegNum
  /-- off16, inst[15:0]. -/
  off16 : BitVec 16
  deriving DecidableEq, Repr

/-- One constructor per row of spec/opcode_table.json, in the table's order. -/
inductive Instr where
  /-- NOP, the one word 0xE0000000 (R77, R115). -/
  | nop
  /-- BX Rm (R73, R143). -/
  | bx (rm : RegNum)
  /-- JR Rm, a second name of BX's word (R155, log entry 10). -/
  | jr (rm : RegNum)
  /-- ADD Rd, Rn, #imm8 (R104). -/
  | addImm (f : DpiFields)
  /-- ADD Rd, Rn, Rm (R104). -/
  | addReg (f : DprFields)
  /-- SUB Rd, Rn, #imm8 (R105). -/
  | subImm (f : DpiFields)
  /-- SUB Rd, Rn, Rm (R105). -/
  | subReg (f : DprFields)
  /-- AND Rd, Rn, #imm8 (R106). -/
  | andImm (f : DpiFields)
  /-- AND Rd, Rn, Rm (R106). -/
  | andReg (f : DprFields)
  /-- ORR Rd, Rn, #imm8 (R107). -/
  | orrImm (f : DpiFields)
  /-- ORR Rd, Rn, Rm (R107). -/
  | orrReg (f : DprFields)
  /-- MOV Rd, #imm8 (R112). -/
  | movImm (f : MovImmFields)
  /-- MOV Rd, Rm (R112). -/
  | movReg (f : MovRegFields)
  /-- EOR Rd, Rn, #imm8 (R110). -/
  | eorImm (f : DpiFields)
  /-- EOR Rd, Rn, Rm (R110). -/
  | eorReg (f : DprFields)
  /-- CMP Rn, #imm8 (R113). -/
  | cmpImm (f : DpiFields)
  /-- CMP Rn, Rm (R113). -/
  | cmpReg (f : DprFields)
  /-- TST Rn, #imm8 (R114). -/
  | tstImm (f : DpiFields)
  /-- TST Rn, Rm (R114). -/
  | tstReg (f : DprFields)
  /-- SLL Rd, Rn, Rm (R152). -/
  | sll (f : RrrFields)
  /-- SRL Rd, Rn, Rm (R153). -/
  | srl (f : RrrFields)
  /-- SLT Rd, Rn, Rm (R157). -/
  | slt (f : RrrFields)
  /-- LDR Rd, [Rn, #offset] (R132). -/
  | ldr (f : LsiFields)
  /-- STR Rd, [Rn, #offset] (R133). -/
  | str (f : LsiFields)
  /-- B label (R141). -/
  | b (off24 : BitVec 24)
  /-- BL label (R142). -/
  | bl (off24 : BitVec 24)
  /-- BNE Rn, Rm, off16 (R162). -/
  | bne (f : Cb16Fields)
  /-- BEQ Rn, Rm, off16 (R161). -/
  | beq (f : Cb16Fields)
  /-- J target9 (R158). -/
  | j (target9 : BitVec 9)
  deriving DecidableEq, Repr

end Sys2Proof
end

