-- ==== Sys2Proof/WellFormed.lean ====
section
/-! DEFINITION. Which instruction terms the decoder's reading of their own word gives back (30_encoding.md R75).
The fields' types bound every operand; what is left are the words with two readings: NOP over AND (R77), and J against BEQ,
which J_BEQ_OVERLAP settles (R79). -/

namespace Sys2Proof

/-- The register form of AND with every field zero is the NOP word, and the decoder gives NOP (30_encoding.md R75 step 2, R77). -/
def DprFields.isNopWord (f : DprFields) : Bool :=
  f.s == 0 && f.rn == 0 && f.rd == 0 && f.ignored == 0 && f.rm == 0

/-- BEQ with Rn = Rm = 0 and off16 < 512 has the word of a J (30_encoding.md R79). -/
def Cb16Fields.isJWord (f : Cb16Fields) : Bool :=
  f.rn == 0 && f.rm == 0 && decide (f.off16.toNat < 512)

/-- The instruction is one the decoder can give under the setting `o` of J_BEQ_OVERLAP, or JR, whose word
the decoder reads as BX (R155). -/
def Instr.wellFormed (o : JBeqOverlap) : Instr → Bool
  | .nop => true
  | .bx _ => true
  | .jr _ => true
  | .addImm _ => true
  | .addReg _ => true
  | .subImm _ => true
  | .subReg _ => true
  | .andImm _ => true
  | .andReg f => !f.isNopWord
  | .orrImm _ => true
  | .orrReg _ => true
  | .movImm _ => true
  | .movReg _ => true
  | .eorImm _ => true
  | .eorReg _ => true
  | .cmpImm _ => true
  | .cmpReg _ => true
  | .tstImm _ => true
  | .tstReg _ => true
  | .sll _ => true
  | .srl _ => true
  | .slt _ => true
  | .ldr _ => true
  | .str _ => true
  | .b _ => true
  | .bl _ => true
  | .bne _ => true
  | .beq f => decide (o = .beq) || !f.isJWord
  | .j _ => decide (o = .j)

end Sys2Proof
end

