-- ==== Sys2Proof/Decode.lean ====
section
/-! DEFINITION. The decoder of 30_encoding.md R75, total on every 32-bit word and refusing by name; the encoder from the formats
R64 to R77; the opcode map as mask and match per row (opcode_table.json); the label arithmetic of R91; assembler spellings R89. -/

namespace Sys2Proof

/-- Why the decoder refuses a word (30_encoding.md R75). Raised by `decode` alone. All four are safe: the spec gives the word
no meaning (log entries 6 and 24). -/
inductive DecodeRefusal where
  /-- inst[31:28] is not 1110 (R62). -/
  | condNotAlways
  /-- A word no instruction of the spec has (R80 to R84). -/
  | reservedEncoding
  /-- Opcode 0110 or 0111 with I = 1, whose old behaviour no source describes (R81, R156). -/
  | shiftByOneNotSpecified
  /-- One of the 512 words that are both J and BEQ, under J_BEQ_OVERLAP = refuse (R79). -/
  | ambiguousJOrBeq
  deriving DecidableEq, Repr

/-! ### Fields of a word (30_encoding.md R61 to R76) -/

/-- cond, inst[31:28] (R61). -/
abbrev condField (w : InstrWord) : BitVec 4 := w.extractLsb' 28 4
/-- op, inst[27:26] (R61). -/
abbrev opField (w : InstrWord) : BitVec 2 := w.extractLsb' 26 2
/-- I, inst[25] (R64). -/
abbrev iField (w : InstrWord) : BitVec 1 := w.extractLsb' 25 1
/-- opcode, inst[24:21] (R66). -/
abbrev opcodeField (w : InstrWord) : BitVec 4 := w.extractLsb' 21 4

/-- The fields of format DPI (R64). -/
def dpiFields (w : InstrWord) : DpiFields where
  s := w.extractLsb' 20 1
  rn := w.extractLsb' 16 4
  rd := w.extractLsb' 12 4
  rot := w.extractLsb' 8 4
  imm8 := w.extractLsb' 0 8

/-- The fields of format DPR (R65). -/
def dprFields (w : InstrWord) : DprFields where
  s := w.extractLsb' 20 1
  rn := w.extractLsb' 16 4
  rd := w.extractLsb' 12 4
  ignored := w.extractLsb' 4 8
  rm := w.extractLsb' 0 4

/-- The fields of MOV's immediate row (R64, R84). -/
def movImmFields (w : InstrWord) : MovImmFields where
  s := w.extractLsb' 20 1
  rd := w.extractLsb' 12 4
  rot := w.extractLsb' 8 4
  imm8 := w.extractLsb' 0 8

/-- The fields of MOV's register row (R65, R84). -/
def movRegFields (w : InstrWord) : MovRegFields where
  s := w.extractLsb' 20 1
  rd := w.extractLsb' 12 4
  ignored := w.extractLsb' 4 8
  rm := w.extractLsb' 0 4

/-- The fields of format RRR (R70). -/
def rrrFields (w : InstrWord) : RrrFields where
  rn := w.extractLsb' 16 4
  rd := w.extractLsb' 12 4
  rm := w.extractLsb' 0 4

/-- The fields of format LSI (R71). -/
def lsiFields (w : InstrWord) : LsiFields where
  u := w.extractLsb' 23 1
  rn := w.extractLsb' 16 4
  rd := w.extractLsb' 12 4
  imm12 := w.extractLsb' 0 12

/-- The fields of format CB16 (R74). -/
def cb16Fields (w : InstrWord) : Cb16Fields where
  rn := w.extractLsb' 20 4
  rm := w.extractLsb' 16 4
  off16 := w.extractLsb' 0 16

/-! ### The decoder (30_encoding.md R75) -/

/-- MOV needs its Rn field to be 0000 (R84). -/
def whenRnZero (w : InstrWord) (i : Instr) : Except DecodeRefusal Instr :=
  if w.extractLsb' 16 4 = 0#4 then .ok i else .error .reservedEncoding

/-- SLL, SRL and SLT need S = 0 and inst[11:4] = 0 (R70, R81). -/
def whenRrr (w : InstrWord) (i : Instr) : Except DecodeRefusal Instr :=
  if w.extractLsb' 20 1 = 0#1 ∧ w.extractLsb' 4 8 = 0#8 then .ok i else .error .reservedEncoding

/-- Column I = 1 of the opcode map (R78). -/
def decodeDpi (w : InstrWord) : Except DecodeRefusal Instr :=
  match (opcodeField w).toNat with
  | 0b0000 => .ok (.andImm (dpiFields w))
  | 0b0001 => .ok (.eorImm (dpiFields w))
  | 0b0010 => .ok (.subImm (dpiFields w))
  | 0b0100 => .ok (.addImm (dpiFields w))
  | 0b0110 => .error .shiftByOneNotSpecified
  | 0b0111 => .error .shiftByOneNotSpecified
  | 0b1000 => .ok (.tstImm (dpiFields w))
  | 0b1010 => .ok (.cmpImm (dpiFields w))
  | 0b1100 => .ok (.orrImm (dpiFields w))
  | 0b1101 => whenRnZero w (.movImm (movImmFields w))
  | _ => .error .reservedEncoding

/-- Column I = 0 of the opcode map (R78). NOP and BX are taken out before it (R75 steps 2 and 3). DESIGN CHOICE, unsafe (log entry 32):
the words ARM gives to MRS, 0xE10F0000 and 0xE14F0000 among them, are TST and CMP, as R67, R75 and R78 have it, though 60_exceptions.md
R178 says that ARM's status-register accesses are refused. -/
def decodeDpr (w : InstrWord) : Except DecodeRefusal Instr :=
  match (opcodeField w).toNat with
  | 0b0000 => .ok (.andReg (dprFields w))
  | 0b0001 => .ok (.eorReg (dprFields w))
  | 0b0010 => .ok (.subReg (dprFields w))
  | 0b0100 => .ok (.addReg (dprFields w))
  | 0b0110 => whenRrr w (.sll (rrrFields w))
  | 0b0111 => whenRrr w (.srl (rrrFields w))
  | 0b1000 => .ok (.tstReg (dprFields w))
  | 0b1010 => .ok (.cmpReg (dprFields w))
  | 0b1011 => whenRrr w (.slt (rrrFields w))
  | 0b1100 => .ok (.orrReg (dprFields w))
  | 0b1101 => whenRnZero w (.movReg (movRegFields w))
  | _ => .error .reservedEncoding

/-- Class op = 01: bit 25 = 0, P = 1, B = 0, W = 0; L chooses (R75 step 5, R82). -/
def decodeLoadStore (w : InstrWord) : Except DecodeRefusal Instr :=
  if w.extractLsb' 24 2 = 0b01#2 ∧ w.extractLsb' 21 2 = 0b00#2 then
    if w.extractLsb' 20 1 = 1#1 then .ok (.ldr (lsiFields w)) else .ok (.str (lsiFields w))
  else .error .reservedEncoding

/-- The words that are J and BEQ R0,R0 at once (R79). -/
def decodeOverlap (o : JBeqOverlap) (w : InstrWord) : Except DecodeRefusal Instr :=
  match o with
  | .refuse => .error .ambiguousJOrBeq
  | .j => .ok (.j (w.extractLsb' 0 9))
  | .beq => .ok (.beq (cb16Fields w))

/-- Class op = 10, by inst[25:24] (R75 steps 6 and 7). -/
def decodeBranch (o : JBeqOverlap) (w : InstrWord) : Except DecodeRefusal Instr :=
  match (w.extractLsb' 24 2).toNat with
  | 0b10 => .ok (.b (w.extractLsb' 0 24))
  | 0b11 => .ok (.bl (w.extractLsb' 0 24))
  | 0b01 => .ok (.bne (cb16Fields w))
  | _ => if w.extractLsb' 9 15 = 0#15 then decodeOverlap o w else .ok (.beq (cb16Fields w))

/-- The decoder: the first line of R75 that applies. -/
def decode (o : JBeqOverlap) (w : InstrWord) : Except DecodeRefusal Instr :=
  if condField w ≠ 0b1110#4 then .error .condNotAlways
  else if w = 0xE0000000#32 then .ok .nop
  else if w.extractLsb' 4 28 = 0xE12FFF1#28 then .ok (.bx (w.extractLsb' 0 4))
  else match (opField w).toNat with
    | 0b00 => if iField w = 1#1 then decodeDpi w else decodeDpr w
    | 0b01 => decodeLoadStore w
    | 0b10 => decodeBranch o w
    | _ => .error .reservedEncoding

/-! ### The encoder, from the formats' tables -/

/-- Format DPI (R64), for the opcode `op`. -/
def encodeDpi (op : BitVec 4) (f : DpiFields) : InstrWord :=
  0b1110#4 ++ 0b00#2 ++ 1#1 ++ op ++ f.s ++ f.rn ++ f.rd ++ f.rot ++ f.imm8

/-- Format DPR (R65), for the opcode `op`. -/
def encodeDpr (op : BitVec 4) (f : DprFields) : InstrWord :=
  0b1110#4 ++ 0b00#2 ++ 0#1 ++ op ++ f.s ++ f.rn ++ f.rd ++ f.ignored ++ f.rm

/-- Format RRR (R70), for the opcode `op`. -/
def encodeRrr (op : BitVec 4) (f : RrrFields) : InstrWord :=
  0b1110#4 ++ 0b000#3 ++ op ++ 0#1 ++ f.rn ++ f.rd ++ 0x00#8 ++ f.rm

/-- Format LSI (R71), for the L bit `l`. -/
def encodeLsi (l : BitVec 1) (f : LsiFields) : InstrWord :=
  0b1110#4 ++ 0b01#2 ++ 0#1 ++ 1#1 ++ f.u ++ 0#1 ++ 0#1 ++ l ++ f.rn ++ f.rd ++ f.imm12

/-- Format CB16 (R74), for inst[27:24] = `k`. -/
def encodeCb16 (k : BitVec 4) (f : Cb16Fields) : InstrWord :=
  0b1110#4 ++ k ++ f.rn ++ f.rm ++ f.off16

/-- The word of an instruction. -/
def encode : Instr → InstrWord
  | .nop => 0xE0000000#32
  | .bx rm => 0xE#4 ++ 0x12FFF1#24 ++ rm
  | .jr rm => 0xE#4 ++ 0x12FFF1#24 ++ rm
  | .addImm f => encodeDpi 0b0100#4 f
  | .addReg f => encodeDpr 0b0100#4 f
  | .subImm f => encodeDpi 0b0010#4 f
  | .subReg f => encodeDpr 0b0010#4 f
  | .andImm f => encodeDpi 0b0000#4 f
  | .andReg f => encodeDpr 0b0000#4 f
  | .orrImm f => encodeDpi 0b1100#4 f
  | .orrReg f => encodeDpr 0b1100#4 f
  | .movImm f => encodeDpi 0b1101#4 ⟨f.s, 0, f.rd, f.rot, f.imm8⟩
  | .movReg f => encodeDpr 0b1101#4 ⟨f.s, 0, f.rd, f.ignored, f.rm⟩
  | .eorImm f => encodeDpi 0b0001#4 f
  | .eorReg f => encodeDpr 0b0001#4 f
  | .cmpImm f => encodeDpi 0b1010#4 f
  | .cmpReg f => encodeDpr 0b1010#4 f
  | .tstImm f => encodeDpi 0b1000#4 f
  | .tstReg f => encodeDpr 0b1000#4 f
  | .sll f => encodeRrr 0b0110#4 f
  | .srl f => encodeRrr 0b0111#4 f
  | .slt f => encodeRrr 0b1011#4 f
  | .ldr f => encodeLsi 1#1 f
  | .str f => encodeLsi 0#1 f
  | .b off24 => 0b1110#4 ++ 0b1010#4 ++ off24
  | .bl off24 => 0b1110#4 ++ 0b1011#4 ++ off24
  | .bne f => encodeCb16 0b1001#4 f
  | .beq f => encodeCb16 0b1000#4 f
  | .j target9 => 0b111010#6 ++ 0#17 ++ target9

/-- The instruction the decoder gives for an instruction's word: JR's word is BX's (43_new_instructions.md R155). -/
def Instr.canonical : Instr → Instr
  | .jr rm => .bx rm
  | i => i

/-- The decoder on a word numbered as spec/opcode_table.json numbers it, under the launch configuration: one 32-bit word,
bits above `nbits` zero. -/
def decodeTableWord (nbits w : Nat) : Option Instr :=
  match decode Machine.launchConfig.jBeqOverlap (BitVec.ofNat 32 (w % 2 ^ nbits)) with
  | .ok i => some i
  | .error _ => none

/-! ### The opcode map as masks (opcode_table.json) -/

/-- A row of the opcode table: a word `w` is the row's instruction when `w & mask = value`. -/
structure TableRow where
  /-- The bits the row fixes. -/
  mask : InstrWord
  /-- Their values. -/
  value : InstrWord
  deriving DecidableEq, Repr

/-- The row of spec/opcode_table.json an instruction belongs to. -/
def Instr.tableRow : Instr → TableRow
  | .nop => ⟨0xFFFFFFFF, 0xE0000000⟩
  | .bx _ => ⟨0xFFFFFFF0, 0xE12FFF10⟩
  | .jr _ => ⟨0xFFFFFFF0, 0xE12FFF10⟩
  | .addImm _ => ⟨0xFFE00000, 0xE2800000⟩
  | .addReg _ => ⟨0xFFE00000, 0xE0800000⟩
  | .subImm _ => ⟨0xFFE00000, 0xE2400000⟩
  | .subReg _ => ⟨0xFFE00000, 0xE0400000⟩
  | .andImm _ => ⟨0xFFE00000, 0xE2000000⟩
  | .andReg _ => ⟨0xFFE00000, 0xE0000000⟩
  | .orrImm _ => ⟨0xFFE00000, 0xE3800000⟩
  | .orrReg _ => ⟨0xFFE00000, 0xE1800000⟩
  | .movImm _ => ⟨0xFFEF0000, 0xE3A00000⟩
  | .movReg _ => ⟨0xFFEF0000, 0xE1A00000⟩
  | .eorImm _ => ⟨0xFFE00000, 0xE2200000⟩
  | .eorReg _ => ⟨0xFFE00000, 0xE0200000⟩
  | .cmpImm _ => ⟨0xFFE00000, 0xE3400000⟩
  | .cmpReg _ => ⟨0xFFE00000, 0xE1400000⟩
  | .tstImm _ => ⟨0xFFE00000, 0xE3000000⟩
  | .tstReg _ => ⟨0xFFE00000, 0xE1000000⟩
  | .sll _ => ⟨0xFFF00FF0, 0xE0C00000⟩
  | .srl _ => ⟨0xFFF00FF0, 0xE0E00000⟩
  | .slt _ => ⟨0xFFF00FF0, 0xE1600000⟩
  | .ldr _ => ⟨0xFF700000, 0xE5100000⟩
  | .str _ => ⟨0xFF700000, 0xE5000000⟩
  | .b _ => ⟨0xFF000000, 0xEA000000⟩
  | .bl _ => ⟨0xFF000000, 0xEB000000⟩
  | .bne _ => ⟨0xFF000000, 0xE9000000⟩
  | .beq _ => ⟨0xFF000000, 0xE8000000⟩
  | .j _ => ⟨0xFFFFFE00, 0xE8000000⟩

/-- The rows of spec/opcode_table.json, in the table's order. -/
def opcodeTable : List TableRow :=
  [⟨0xFFFFFFFF, 0xE0000000⟩, ⟨0xFFFFFFF0, 0xE12FFF10⟩, ⟨0xFFFFFFF0, 0xE12FFF10⟩,
   ⟨0xFFE00000, 0xE2800000⟩, ⟨0xFFE00000, 0xE0800000⟩, ⟨0xFFE00000, 0xE2400000⟩, ⟨0xFFE00000, 0xE0400000⟩,
   ⟨0xFFE00000, 0xE2000000⟩, ⟨0xFFE00000, 0xE0000000⟩, ⟨0xFFE00000, 0xE3800000⟩, ⟨0xFFE00000, 0xE1800000⟩] ++
  [⟨0xFFEF0000, 0xE3A00000⟩, ⟨0xFFEF0000, 0xE1A00000⟩, ⟨0xFFE00000, 0xE2200000⟩, ⟨0xFFE00000, 0xE0200000⟩,
   ⟨0xFFE00000, 0xE3400000⟩, ⟨0xFFE00000, 0xE1400000⟩, ⟨0xFFE00000, 0xE3000000⟩, ⟨0xFFE00000, 0xE1000000⟩] ++
  [⟨0xFFF00FF0, 0xE0C00000⟩, ⟨0xFFF00FF0, 0xE0E00000⟩, ⟨0xFFF00FF0, 0xE1600000⟩,
   ⟨0xFF700000, 0xE5100000⟩, ⟨0xFF700000, 0xE5000000⟩, ⟨0xFF000000, 0xEA000000⟩, ⟨0xFF000000, 0xEB000000⟩,
   ⟨0xFF000000, 0xE9000000⟩, ⟨0xFF000000, 0xE8000000⟩, ⟨0xFFFFFE00, 0xE8000000⟩]

/-! ### Which registers an instruction's rule uses (10_state.md R37) -/

/-- The registers an instruction reads (R37). CMP, TST and NOP read none (R113 to R115). -/
def Instr.reads : Instr → List RegNum
  | .nop => []
  | .bx rm => [rm]
  | .jr rm => [rm]
  | .addImm f => [f.rn]
  | .addReg f => [f.rn, f.rm]
  | .subImm f => [f.rn]
  | .subReg f => [f.rn, f.rm]
  | .andImm f => [f.rn]
  | .andReg f => [f.rn, f.rm]
  | .orrImm f => [f.rn]
  | .orrReg f => [f.rn, f.rm]
  | .movImm _ => []
  | .movReg f => [f.rm]
  | .eorImm f => [f.rn]
  | .eorReg f => [f.rn, f.rm]
  | .cmpImm _ => []
  | .cmpReg _ => []
  | .tstImm _ => []
  | .tstReg _ => []
  | .sll f => [f.rn, f.rm]
  | .srl f => [f.rn, f.rm]
  | .slt f => [f.rn, f.rm]
  | .ldr f => [f.rn]
  | .str f => [f.rn, f.rd]
  | .b _ => []
  | .bl _ => []
  | .bne f => [f.rn, f.rm]
  | .beq f => [f.rn, f.rm]
  | .j _ => []

/-- The registers an instruction writes (R37); BL writes register 14. -/
def Instr.writes : Instr → List RegNum
  | .nop => []
  | .bx _ => []
  | .jr _ => []
  | .addImm f => [f.rd]
  | .addReg f => [f.rd]
  | .subImm f => [f.rd]
  | .subReg f => [f.rd]
  | .andImm f => [f.rd]
  | .andReg f => [f.rd]
  | .orrImm f => [f.rd]
  | .orrReg f => [f.rd]
  | .movImm f => [f.rd]
  | .movReg f => [f.rd]
  | .eorImm f => [f.rd]
  | .eorReg f => [f.rd]
  | .cmpImm _ => []
  | .cmpReg _ => []
  | .tstImm _ => []
  | .tstReg _ => []
  | .sll f => [f.rd]
  | .srl f => [f.rd]
  | .slt f => [f.rd]
  | .ldr f => [f.rd]
  | .str _ => []
  | .b _ => []
  | .bl _ => [14#4]
  | .bne _ => []
  | .beq _ => []
  | .j _ => []

/-- The control transfers: B, BL, BX, JR, J, BEQ, BNE (10_state.md R27). -/
def Instr.isControlTransfer : Instr → Bool
  | .bx _ => true
  | .jr _ => true
  | .b _ => true
  | .bl _ => true
  | .bne _ => true
  | .beq _ => true
  | .j _ => true
  | _ => false

/-! ### What the assembler computes (30_encoding.md R89, R91) -/

/-- off24 of `B label` or `BL label` at word address `a` with the label at `t`: (T - A - 2) mod 2^24 (R91). -/
def labelOff24 (a t : WordAddr) : BitVec 24 := BitVec.ofInt 24 ((t.toNat : Int) - a.toNat - 2)

/-- off16 of `BEQ Rn,Rm,label` and BNE: (T - A - 2) mod 2^16 (R91). -/
def labelOff16 (a t : WordAddr) : BitVec 16 := BitVec.ofInt 16 ((t.toNat : Int) - a.toNat - 2)

/-- A register as the spec writes it, R0 to R15 (10_state.md R20). -/
def regName (r : RegNum) : String := "R" ++ toString r.toNat

/-- An immediate as the spec's examples write it (R89). -/
def immName {n : Nat} (v : BitVec n) : String := "#" ++ toString v.toNat

/-- "Rd, Rn, #imm8" of format DPI (R89). -/
def DpiFields.asm (f : DpiFields) : String := " " ++ regName f.rd ++ ", " ++ regName f.rn ++ ", " ++ immName f.imm8

/-- "Rd, Rn, Rm" of format DPR (R89). -/
def DprFields.asm (f : DprFields) : String := " " ++ regName f.rd ++ ", " ++ regName f.rn ++ ", " ++ regName f.rm

/-- "Rd, Rn, Rm" of format RRR (R89). -/
def RrrFields.asm (f : RrrFields) : String := " " ++ regName f.rd ++ ", " ++ regName f.rn ++ ", " ++ regName f.rm

/-- "Rd, [Rn, #offset]", the offset written negative when U = 0 (R89). -/
def LsiFields.asm (f : LsiFields) : String :=
  " " ++ regName f.rd ++ ", [" ++ regName f.rn ++ ", #" ++ (if f.u = 1#1 then "" else "-") ++ toString f.imm12.toNat ++ "]"

/-- "Rn, Rm, off16", the offset as a signed number (R89). -/
def Cb16Fields.asm (f : Cb16Fields) : String :=
  " " ++ regName f.rn ++ ", " ++ regName f.rm ++ ", " ++ toString f.off16.toInt

/-- An instruction in the source's spelling (R89, R92), a branch's label as its signed offset. -/
def Instr.asm : Instr → String
  | .nop => "NOP"
  | .bx rm => "BX " ++ regName rm
  | .jr rm => "JR " ++ regName rm
  | .addImm f => "ADD" ++ f.asm
  | .addReg f => "ADD" ++ f.asm
  | .subImm f => "SUB" ++ f.asm
  | .subReg f => "SUB" ++ f.asm
  | .andImm f => "AND" ++ f.asm
  | .andReg f => "AND" ++ f.asm
  | .orrImm f => "ORR" ++ f.asm
  | .orrReg f => "ORR" ++ f.asm
  | .movImm f => "MOV " ++ regName f.rd ++ ", " ++ immName f.imm8
  | .movReg f => "MOV " ++ regName f.rd ++ ", " ++ regName f.rm
  | .eorImm f => "EOR" ++ f.asm
  | .eorReg f => "EOR" ++ f.asm
  | .cmpImm f => "CMP " ++ regName f.rn ++ ", " ++ immName f.imm8
  | .cmpReg f => "CMP " ++ regName f.rn ++ ", " ++ regName f.rm
  | .tstImm f => "TST " ++ regName f.rn ++ ", " ++ immName f.imm8
  | .tstReg f => "TST " ++ regName f.rn ++ ", " ++ regName f.rm
  | .sll f => "SLL" ++ f.asm
  | .srl f => "SRL" ++ f.asm
  | .slt f => "SLT" ++ f.asm
  | .ldr f => "LDR" ++ f.asm
  | .str f => "STR" ++ f.asm
  | .b off24 => "B " ++ toString off24.toInt
  | .bl off24 => "BL " ++ toString off24.toInt
  | .bne f => "BNE" ++ f.asm
  | .beq f => "BEQ" ++ f.asm
  | .j target9 => "J " ++ toString target9.toNat

end Sys2Proof
end

