-- ==== Sys2Proof/Machine/Memory.lean ====
section
/-! DEFINITION. Data memory and instruction memory as sparse lists in one canonical form: addresses strictly rising, one entry for
each address that has been given a value. An address that is not listed has no value (20_memory.md R41, R44; log entries 8, 9). -/

namespace Sys2Proof.Machine

/-- The value at address `a`, if it has one. -/
def lookup {α : Type} : List (Nat × α) → Nat → Option α
  | [], _ => none
  | (k, v) :: rest, a => if a = k then some v else lookup rest a

/-- The list with `v` at address `a`. -/
def update {α : Type} : List (Nat × α) → Nat → α → List (Nat × α)
  | [], a, v => [(a, v)]
  | (k, u) :: rest, a, v =>
    if a < k then (a, v) :: (k, u) :: rest
    else if a = k then (a, v) :: rest
    else (k, u) :: update rest a v

/-- The canonical form: strictly rising addresses. -/
abbrev Rising {α : Type} (l : List (Nat × α)) : Prop := l.Pairwise (fun c d => c.1 < d.1)

/-- Data memory: the bytes that have been given a value, by `InitDMem` or by a store (10_state.md R35, 20_memory.md R44). -/
abbrev Memory := List Host.Cell

/-- The canonical form of data memory. No entry can equal what an unlisted address reads as, which is no value. -/
abbrev Memory.wf (m : Memory) : Prop := Rising m

/-- DMem[a], none where nothing has given the byte a value. -/
def Memory.read (m : Memory) (a : Nat) : Option Byte := lookup m a

/-- DMem with byte `b` at address `a`. -/
def Memory.write (m : Memory) (a : Nat) (b : Byte) : Memory := update m a b

/-- MemRead without its checks: the sum over k in 0..n-1 of DMem[a + k] * 256^k, none where one of the bytes has no value
(20_memory.md R44). -/
def Memory.readLE (m : Memory) (a : Nat) : Nat → Option Nat
  | 0 => some 0
  | n + 1 =>
    match m.read a, Memory.readLE m (a + 1) n with
    | some b, some v => some (b.toNat + 256 * v)
    | _, _ => none

/-- MemWrite without its checks: DMem[a + k] <- (v >> 8k) mod 256 for k in 0..n-1 (20_memory.md R44). -/
def Memory.writeLE (m : Memory) (a : Nat) : Nat → Nat → Memory
  | 0, _ => m
  | n + 1, v => Memory.writeLE (m.write a (BitVec.ofNat 8 v)) (a + 1) n (v / 256)

/-- Instruction memory, the launch parameter `Program`: word addresses and the 32-bit words there (20_memory.md R41,
70_reset_and_hazards.md R193). It has no byte view. -/
abbrev Program := List (Nat × InstrWord)

/-- `Program[a]`, none where the program does not define word `a`. -/
def Program.read (p : Program) (a : WordAddr) : Option InstrWord := lookup p a.toNat

/-- The program with word `w` at word address `a`: what a loader does before a run (R193), never an instruction (R54). -/
def Program.load (p : Program) (a : WordAddr) (w : InstrWord) : Program := update p a.toNat w

end Sys2Proof.Machine
end

