-- ==== Sys2Proof/Machine/State.lean ====
section
/-! DEFINITION. The state of the core, the reasons a step can stop, and the state after reset. -/

namespace Sys2Proof.Machine

/-- Why a step stops with a fault: the program read something that has no value (60_exceptions.md R171). The spec's second fault,
UnwrittenRegister, has no constructor, since every register holds a value at reset (log entry 1). -/
inductive Fault where
  /-- LDR of a word with a byte that neither InitDMem nor a store has given a value; `addr` is the word's address (20_memory.md R44).
  Raised by LDR alone. Safe: the hardware loads something. -/
  | unwrittenMemory (addr : Nat)
  deriving DecidableEq, Repr

/-- Why a step is refused: the spec gives the word or the access no meaning (60_exceptions.md R171). -/
inductive Refusal where
  /-- An instruction exec gives no meaning yet. Raised by no arm: every constructor has its meaning. Safe. -/
  | notModelled (mnemonic : String)
  /-- The decoder refuses the fetched word (30_encoding.md R75). Raised by the step. Safe: the spec gives the word no meaning. -/
  | undecodable (why : DecodeRefusal)
  /-- A register field that the instruction's rule uses is 1111 (10_state.md R24). Raised by every instruction that uses a register
  field. Safe: the spec supports no reading of register 15. -/
  | r15Operand
  /-- BL under BL_LINK = refuse (42_branch.md R142). Raised by BL. Safe. -/
  | blLinkNotSpecified
  /-- The program does not define the word at the pc (20_memory.md R41). Raised by the fetch. Safe. -/
  | fetchOutsideProgram (a : WordAddr)
  /-- The effective address is no multiple of WORD_BYTES (20_memory.md R45). Raised by LDR and STR. Safe. -/
  | misalignedAccess (ea : Nat)
  /-- The word does not lie in data memory (20_memory.md R46). Raised by LDR and STR. Safe. -/
  | accessOutsideMemory (ea : Nat)
  deriving DecidableEq, Repr

/-- The state of the core (10_state.md section 8), with the launch parameters its step reads (00_scope.md R9, log entry 2). -/
structure State where
  /-- The configuration of the machine. No step changes it. -/
  cfg : Config
  /-- The general registers x[0] to x[15], each XLEN bits wide (R20, R21). No register is hardwired (R22). -/
  regs : Vector (BitVec cfg.xlen) 16
  /-- The program counter, a word address (R25). -/
  pc : WordAddr
  /-- Data memory DMem (R35). -/
  dmem : Memory
  /-- Instruction memory, the launch parameter Program (R34). No step changes it. -/
  imem : Program
  deriving DecidableEq, Repr

/-- The machine at launch with the host's parameters (70_reset_and_hazards.md R190 to R194, R203): the pc at RESET_PC, the program and
the initial data memory as given, and each register 0 to 14 at the value `initRegs` gives it. -/
def State.launch (cfg : Config) (program : Program) (initDMem : Memory) (initRegs : List (Nat × Nat)) : State where
  cfg := cfg
  regs := Vector.ofFn fun i => BitVec.ofNat cfg.xlen
    (if i.val = 15 then unwrittenRegister else (lookup initRegs i.val).getD unwrittenRegister)
  pc := cfg.resetPc
  dmem := initDMem
  imem := program

/-- The machine right after reset: launched with the launch configuration, InitRegs and InitDMem empty (their defaults, R192,
R194), and no program loaded (log entry 8). -/
def State.reset : State := State.launch launchConfig [] [] []

end Sys2Proof.Machine
end

