-- ==== Sys2Proof/Machine/Ops.lean ====
section
/-! DEFINITION. The named operations over registers, the pc, data memory and instruction memory. The hardware raises no exception and
has no return from one (60_exceptions.md R170, R174, R175), so there is no operation for either. -/

namespace Sys2Proof.Machine

/-- How a step ends (00_scope.md R13). -/
abbrev Result := Host.Outcome State Fault Refusal

/-! ### Registers and pc -/

/-- x[r] (00_scope.md R12). The one place that reads a register. -/
def State.reg (s : State) (r : RegNum) : BitVec s.cfg.xlen := s.regs[r.toNat]'(r.isLt)

/-- x[r] <- v (00_scope.md R12). The one place that writes a register; none is hardwired (10_state.md R22). -/
def State.setReg (s : State) (r : RegNum) (v : BitVec s.cfg.xlen) : State :=
  { s with regs := s.regs.set r.toNat v r.isLt }

/-- pc <- t. -/
def State.setPc (s : State) (t : WordAddr) : State := { s with pc := t }

/-- pc <- A + 1, modulo 512 (10_state.md R27, R28). -/
def State.advance (s : State) : State := s.setPc (s.pc + 1)

/-- DMem <- m. -/
def State.setDMem (s : State) (m : Memory) : State := { s with dmem := m }

/-- x[r] read as an unsigned number, a type that does not depend on the state: for statements that compare two states. -/
def State.regVal (s : State) (r : RegNum) : Nat := (s.reg r).toNat

/-- x[Rd] <- v; pc <- A + 1: how an instruction that writes a register and does not branch ends. -/
def State.writeBack (s : State) (rd : RegNum) (v : BitVec s.cfg.xlen) : State := (s.setReg rd v).advance

/-- The check of 10_state.md R24: an instruction whose rule uses register 15 is refused; otherwise the step goes on to `k`.
It comes before every other check of the instruction (60_exceptions.md R173). -/
def unlessR15 (used : List RegNum) (k : Result) : Result :=
  if 15#4 ∈ used then .refused .r15Operand else k

/-! ### Data memory -/

/-- The checks of a load or store, in order: alignment (20_memory.md R45), then range (R46, no wrap around the end). -/
def State.accessRefusal (s : State) (ea : BitVec s.cfg.xlen) : Option Refusal :=
  if ea.toNat % s.cfg.wordBytes ≠ 0 then some (.misalignedAccess ea.toNat)
  else if s.cfg.dmemBytes < ea.toNat + s.cfg.wordBytes then some (.accessOutsideMemory ea.toNat)
  else none

/-- MemRead(EA, WORD_BYTES) with its checks (20_memory.md R44 to R46, 41_load_store.md R131), the word handed on to `k`. -/
def State.loadWord (s : State) (ea : BitVec s.cfg.xlen) (k : BitVec s.cfg.xlen → Result) : Result :=
  match s.accessRefusal ea with
  | some r => .refused r
  | none =>
    match s.dmem.readLE ea.toNat s.cfg.wordBytes with
    | some v => k (BitVec.ofNat s.cfg.xlen v)
    | none => .fault (.unwrittenMemory ea.toNat)

/-- MemWrite(EA, WORD_BYTES, v) with its checks (20_memory.md R44 to R46, 41_load_store.md R131), the state with the word stored handed
on to `k`. -/
def State.storeWord (s : State) (ea v : BitVec s.cfg.xlen) (k : State → Result) : Result :=
  match s.accessRefusal ea with
  | some r => .refused r
  | none => k (s.setDMem (s.dmem.writeLE ea.toNat s.cfg.wordBytes v.toNat))

/-! ### Instruction memory -/

/-- IFetch(pc) (20_memory.md R41), the word handed on to `k`. -/
def State.fetch (s : State) (k : InstrWord → Result) : Result :=
  match s.imem.read s.pc with
  | some w => k w
  | none => .refused (.fetchOutsideProgram s.pc)

/-- The decoder's answer for the fetched word under the machine's J_BEQ_OVERLAP (30_encoding.md R75, R79), the instruction handed on
to `k`. -/
def State.decodeWord (s : State) (w : InstrWord) (k : Instr → Result) : Result :=
  match decode s.cfg.jBeqOverlap w with
  | .ok i => k i
  | .error e => .refused (.undecodable e)

end Sys2Proof.Machine
end

