-- ==== Sys2Proof/Machine/Operands.lean ====
section
/-! DEFINITION. Operand assembly: the second operand, the effective address, the shift amount, the branch targets. -/

namespace Sys2Proof.Machine

/-- operand2 of format DPI: zext_XLEN(imm8); rot is ignored (30_encoding.md R68). -/
def State.immOperand (s : State) (imm8 : BitVec 8) : BitVec s.cfg.xlen := imm8.setWidth s.cfg.xlen

/-- EA of format LSI: x[Rn] plus zext_XLEN(imm12) when U = 1, minus it when U = 0, modulo 2^XLEN; not scaled, no write-back
(41_load_store.md R130, 30_encoding.md R85). -/
def State.effAddr (s : State) (f : LsiFields) : BitVec s.cfg.xlen :=
  if f.u = 1#1 then s.reg f.rn + f.imm12.setWidth s.cfg.xlen else s.reg f.rn - f.imm12.setWidth s.cfg.xlen

/-- The shift amount of SLL and SRL: x[Rm][5:0] (43_new_instructions.md R151). -/
def State.shiftAmount (s : State) (rm : RegNum) : Nat := ((s.reg rm).setWidth 6).toNat

/-- The target of B and BL at word address `a`: a + 2 + off24[8:0], modulo 512 (42_branch.md R140). -/
def branchTarget24 (a : WordAddr) (off24 : BitVec 24) : WordAddr := a + 2 + off24.setWidth 9

/-- The target of a taken BEQ or BNE at word address `a`: a + 2 + off16[8:0], modulo 512 (43_new_instructions.md R160). -/
def branchTarget16 (a : WordAddr) (off16 : BitVec 16) : WordAddr := a + 2 + off16.setWidth 9

/-- The target of BX and JR: x[Rm][8:0], a word address (42_branch.md R143). -/
def State.registerTarget (s : State) (rm : RegNum) : WordAddr := (s.reg rm).setWidth 9

end Sys2Proof.Machine
end

