-- ==== Sys2Proof/Machine/Branch.lean ====
section
/-! DEFINITION. The meanings of B, BL and BX (42_branch.md). A taken transfer takes effect at once: there is no delay slot
(R145; log entry 13). -/

namespace Sys2Proof.Machine

/-- pc <- x[Rm][8:0] (R143): the one jump to a register, of BX and JR (43_new_instructions.md R155). Nothing is exchanged (R144). -/
def jumpToRegister (rm : RegNum) (s : State) : Result :=
  unlessR15 [rm] (.next (s.setPc (s.registerTarget rm)))

/-- B label: pc <- (A + 2 + off24[8:0]) mod 512 (R141). -/
def execB (off24 : BitVec 24) (s : State) : Result := .next (s.setPc (branchTarget24 s.pc off24))

/-- BL label: x[14] <- zext_XLEN(A + 1); pc <- (A + 2 + off24[8:0]) mod 512, or refused under BL_LINK = refuse (R142; log entry 7). -/
def execBl (off24 : BitVec 24) (s : State) : Result :=
  match s.cfg.blLink with
  | .r14Next => .next ((s.setReg 14#4 ((s.pc + 1).setWidth s.cfg.xlen)).setPc (branchTarget24 s.pc off24))
  | .refuse => .refused .blLinkNotSpecified

/-- BX Rm (R143; log entry 16). -/
def execBx (rm : RegNum) (s : State) : Result := jumpToRegister rm s

end Sys2Proof.Machine
end

