-- ==== Sys2Proof/Machine/DataProcessing.lean ====
section
/-! DEFINITION. The meanings of the data-processing instructions and NOP (40_data_processing.md). -/

namespace Sys2Proof.Machine

/-- The common shape of format DPI (R100, R102): the register check for Rn and Rd, then x[Rd] <- v; pc <- A + 1. The value is computed from
the state before the write. -/
def dpiResult (f : DpiFields) (s : State) (v : BitVec s.cfg.xlen) : Result :=
  unlessR15 [f.rn, f.rd] (.next (s.writeBack f.rd v))

/-- The common shape of format DPR (R100, R102): the register check for Rn, Rm and Rd, then x[Rd] <- v; pc <- A + 1. -/
def dprResult (f : DprFields) (s : State) (v : BitVec s.cfg.xlen) : Result :=
  unlessR15 [f.rn, f.rm, f.rd] (.next (s.writeBack f.rd v))

/-- ADD Rd, Rn, #imm8: modulo 2^XLEN, nothing recorded on overflow (R101, R104; log entry 14). -/
def execAddImm (f : DpiFields) (s : State) : Result := dpiResult f s (s.reg f.rn + s.immOperand f.imm8)

/-- ADD Rd, Rn, Rm (R101, R104; log entry 14). -/
def execAddReg (f : DprFields) (s : State) : Result := dprResult f s (s.reg f.rn + s.reg f.rm)

/-- SUB Rd, Rn, #imm8: Rn minus operand2, modulo 2^XLEN (R101, R105; log entry 14). -/
def execSubImm (f : DpiFields) (s : State) : Result := dpiResult f s (s.reg f.rn - s.immOperand f.imm8)

/-- SUB Rd, Rn, Rm (R101, R105; log entry 14). -/
def execSubReg (f : DprFields) (s : State) : Result := dprResult f s (s.reg f.rn - s.reg f.rm)

/-- AND Rd, Rn, #imm8: bitwise conjunction (R106; log entry 14). -/
def execAndImm (f : DpiFields) (s : State) : Result := dpiResult f s (s.reg f.rn &&& s.immOperand f.imm8)

/-- AND Rd, Rn, Rm (R106; log entry 14). -/
def execAndReg (f : DprFields) (s : State) : Result := dprResult f s (s.reg f.rn &&& s.reg f.rm)

/-- ORR Rd, Rn, #imm8: bitwise inclusive or (R107; log entry 14). -/
def execOrrImm (f : DpiFields) (s : State) : Result := dpiResult f s (s.reg f.rn ||| s.immOperand f.imm8)

/-- ORR Rd, Rn, Rm (R107; log entry 14). -/
def execOrrReg (f : DprFields) (s : State) : Result := dprResult f s (s.reg f.rn ||| s.reg f.rm)

/-- EOR Rd, Rn, #imm8: bitwise exclusive or (R110; log entry 14). -/
def execEorImm (f : DpiFields) (s : State) : Result := dpiResult f s (s.reg f.rn ^^^ s.immOperand f.imm8)

/-- EOR Rd, Rn, Rm (R110; log entry 14). -/
def execEorReg (f : DprFields) (s : State) : Result := dprResult f s (s.reg f.rn ^^^ s.reg f.rm)

/-- MOV Rd, #imm8: the first operand is the constant zero, no register is read (R112; log entry 17). -/
def execMovImm (f : MovImmFields) (s : State) : Result :=
  unlessR15 [f.rd] (.next (s.writeBack f.rd (s.immOperand f.imm8)))

/-- MOV Rd, Rm (R112; log entry 17). -/
def execMovReg (f : MovRegFields) (s : State) : Result :=
  unlessR15 [f.rm, f.rd] (.next (s.writeBack f.rd (s.reg f.rm)))

/-- CMP Rn, #imm8: no field is used, nothing is read or written but the pc (R113). -/
def execCmpImm (_f : DpiFields) (s : State) : Result := .next s.advance

/-- CMP Rn, Rm (R113). -/
def execCmpReg (_f : DprFields) (s : State) : Result := .next s.advance

/-- TST Rn, #imm8: no field is used, nothing is read or written but the pc (R114). -/
def execTstImm (_f : DpiFields) (s : State) : Result := .next s.advance

/-- TST Rn, Rm (R114). -/
def execTstReg (_f : DprFields) (s : State) : Result := .next s.advance

/-- NOP: R0 is neither read nor written (R115; log entry 18). -/
def execNop (s : State) : Result := .next s.advance

end Sys2Proof.Machine
end

