-- ==== Sys2Proof/Machine/LoadStore.lean ====
section
/-! DEFINITION. The meanings of LDR and STR (41_load_store.md). The checks come in the order of R131; the base register keeps its
value. -/

namespace Sys2Proof.Machine

/-- LDR Rd, [Rn, #offset]: x[Rd] <- MemRead(EA, WORD_BYTES); pc <- A + 1. The base is read before Rd is written (R132). -/
def execLdr (f : LsiFields) (s : State) : Result :=
  unlessR15 [f.rn, f.rd] (s.loadWord (s.effAddr f) fun v => .next (s.writeBack f.rd v))

/-- STR Rd, [Rn, #offset]: MemWrite(EA, WORD_BYTES, x[Rd]); pc <- A + 1. No register is written (R133). -/
def execStr (f : LsiFields) (s : State) : Result :=
  unlessR15 [f.rn, f.rd] (s.storeWord (s.effAddr f) (s.reg f.rd) fun t => .next t.advance)

end Sys2Proof.Machine
end

