-- ==== Sys2Proof/Machine/Flags.lean ====
section
/-! DEFINITION. The conditions instructions compute for themselves. The core has no status flag (10_state.md R29): no instruction reads
or writes one, CMP and TST compute nothing a program can see (R30), and BEQ, BNE and SLT compare two registers directly. -/

namespace Sys2Proof.Machine

/-- BEQ's condition: all XLEN bits of x[Rn] and x[Rm] agree (43_new_instructions.md R161). BNE's is its negation (R162). -/
def State.regsEqual (s : State) (rn rm : RegNum) : Bool := s.reg rn == s.reg rm

/-- SLT's condition: signed(x[Rn]) < signed(x[Rm]), the exact two's-complement comparison (43_new_instructions.md R157). -/
def State.signedLess (s : State) (rn rm : RegNum) : Bool := decide ((s.reg rn).toInt < (s.reg rm).toInt)

end Sys2Proof.Machine
end

