-- ==== Sys2Proof/Machine/NewInstructions.lean ====
section
/-! DEFINITION. The meanings of SLL, SRL, JR, J, SLT, BEQ and BNE (43_new_instructions.md), the block the source marks as provisional
(R150); each has a definition of its own, so that a later edition can change one alone (93_implementation_defined.md U25). -/

namespace Sys2Proof.Machine

/-- The common shape of format RRR (30_encoding.md R70): x[Rd] <- v; pc <- A + 1, with the register check for Rn, Rm and Rd. -/
def rrrResult (f : RrrFields) (s : State) (v : BitVec s.cfg.xlen) : Result :=
  unlessR15 [f.rn, f.rm, f.rd] (.next (s.writeBack f.rd v))

/-- SLL Rd,Rn,Rm: x[Rn] * 2^sh modulo 2^XLEN; an amount of XLEN or more gives 0 (R151, R152, R154; log entry 15). -/
def execSll (f : RrrFields) (s : State) : Result := rrrResult f s (s.reg f.rn <<< s.shiftAmount f.rm)

/-- SRL Rd,Rn,Rm: floor(x[Rn] / 2^sh), zeros coming in at the top (R151, R153, R154; log entry 15). -/
def execSrl (f : RrrFields) (s : State) : Result := rrrResult f s (s.reg f.rn >>> s.shiftAmount f.rm)

/-- SLT Rd,Rn,Rm: 1 when signed(x[Rn]) < signed(x[Rm]), else 0 (R157). -/
def execSlt (f : RrrFields) (s : State) : Result :=
  rrrResult f s (if s.signedLess f.rn f.rm then 1#s.cfg.xlen else 0#s.cfg.xlen)

/-- JR Rm: identical to BX Rm (R155; log entry 10). -/
def execJr (rm : RegNum) (s : State) : Result := jumpToRegister rm s

/-- J target9: pc <- target9, whatever A is (R158; log entry 6). -/
def execJ (target9 : BitVec 9) (s : State) : Result := .next (s.setPc target9)

/-- The common shape of format CB16: to A + 2 + off16[8:0] when taken, else to A + 1 (R160). -/
def branchOn (taken : Bool) (f : Cb16Fields) (s : State) : Result :=
  unlessR15 [f.rn, f.rm] (.next (if taken then s.setPc (branchTarget16 s.pc f.off16) else s.advance))

/-- BEQ Rn,Rm,off16 (R161). -/
def execBeq (f : Cb16Fields) (s : State) : Result := branchOn (s.regsEqual f.rn f.rm) f s

/-- BNE Rn,Rm,off16 (R162). -/
def execBne (f : Cb16Fields) (s : State) : Result := branchOn (!s.regsEqual f.rn f.rm) f s

end Sys2Proof.Machine
end

