-- ==== Sys2Proof/Machine/Dispatch.lean ====
section
/-! DEFINITION. The dispatch of an instruction to its meaning, one arm per constructor. -/

namespace Sys2Proof.Machine

/-- One instruction executed at the state's pc. -/
def exec (i : Instr) (s : State) : Host.Outcome State Fault Refusal :=
  match i with
  | .nop => Sys2Proof.Machine.execNop s
  | .bx rm => Sys2Proof.Machine.execBx rm s
  | .jr rm => Sys2Proof.Machine.execJr rm s
  | .addImm f => Sys2Proof.Machine.execAddImm f s
  | .addReg f => Sys2Proof.Machine.execAddReg f s
  | .subImm f => Sys2Proof.Machine.execSubImm f s
  | .subReg f => Sys2Proof.Machine.execSubReg f s
  | .andImm f => Sys2Proof.Machine.execAndImm f s
  | .andReg f => Sys2Proof.Machine.execAndReg f s
  | .orrImm f => Sys2Proof.Machine.execOrrImm f s
  | .orrReg f => Sys2Proof.Machine.execOrrReg f s
  | .movImm f => Sys2Proof.Machine.execMovImm f s
  | .movReg f => Sys2Proof.Machine.execMovReg f s
  | .eorImm f => Sys2Proof.Machine.execEorImm f s
  | .eorReg f => Sys2Proof.Machine.execEorReg f s
  | .cmpImm f => Sys2Proof.Machine.execCmpImm f s
  | .cmpReg f => Sys2Proof.Machine.execCmpReg f s
  | .tstImm f => Sys2Proof.Machine.execTstImm f s
  | .tstReg f => Sys2Proof.Machine.execTstReg f s
  | .sll f => Sys2Proof.Machine.execSll f s
  | .srl f => Sys2Proof.Machine.execSrl f s
  | .slt f => Sys2Proof.Machine.execSlt f s
  | .ldr f => Sys2Proof.Machine.execLdr f s
  | .str f => Sys2Proof.Machine.execStr f s
  | .b off24 => Sys2Proof.Machine.execB off24 s
  | .bl off24 => Sys2Proof.Machine.execBl off24 s
  | .bne f => Sys2Proof.Machine.execBne f s
  | .beq f => Sys2Proof.Machine.execBeq f s
  | .j target9 => Sys2Proof.Machine.execJ target9 s

end Sys2Proof.Machine
end

