-- ==== Sys2Proof/Machine/Step.lean ====
section
/-! DEFINITION. One step of the core. -/

namespace Sys2Proof.Machine

/-- One step (00_scope.md R14): fetch at the pc, decode, run the rule of the decoded instruction, which sets the pc. -/
def step (s : State) : Host.Outcome State Fault Refusal :=
  s.fetch fun w => s.decodeWord w fun i => exec i s

/-- The state with one 32-bit word, numbered as spec/opcode_table.json numbers it, loaded where the next step fetches
(log entry 8). Nothing else changes. -/
def State.withFetchWord (s : State) (nbits w : Nat) : State :=
  { s with imem := s.imem.load s.pc (BitVec.ofNat 32 (w % 2 ^ nbits)) }

end Sys2Proof.Machine
end

