-- ==== Sys2Proof/Safety.lean ====
section
/-! DEFINITION. The terms claims use: what a step leaves unchanged, the invariant of the state, the end of a run (R195), the padding
discipline (R200). -/

namespace Sys2Proof.Machine

/-! ### Frames -/

/-- From `s` to `t` nothing changes but the pc and the registers in `ws`: the configuration and the program are the same, every other
register holds the same value, and every byte of data memory reads the same. -/
def OnlyRegsChange (ws : List RegNum) (s t : State) : Prop :=
  t.cfg = s.cfg ∧ t.imem = s.imem ∧ (∀ r, r ∉ ws → t.regVal r = s.regVal r) ∧ ∀ a, t.dmem.read a = s.dmem.read a

/-- From `s` to `t` nothing changes but the pc and the `n` bytes of data memory from address `ea`: the configuration and the program are
the same, every register holds the same value, and every byte outside ea .. ea + n - 1 reads the same. -/
def OnlyBytesChange (ea n : Nat) (s t : State) : Prop :=
  t.cfg = s.cfg ∧ t.imem = s.imem ∧ (∀ r, t.regVal r = s.regVal r) ∧
    ∀ a, a < ea ∨ ea + n ≤ a → t.dmem.read a = s.dmem.read a

/-- The instruction completes: exec answers a next state in which the pc has advanced by one word, x[rd] holds `v`, and nothing else has
changed. -/
def CompletesWriting (i : Instr) (s : State) (rd : RegNum) (v : Nat) : Prop :=
  ∃ t, exec i s = .next t ∧ t.pc = s.pc + 1 ∧ t.regVal rd = v ∧ OnlyRegsChange [rd] s t

/-- The instruction completes: exec answers a next state in which the pc is `target` and nothing else has changed. -/
def CompletesAt (i : Instr) (s : State) (target : WordAddr) : Prop :=
  ∃ t, exec i s = .next t ∧ t.pc = target ∧ OnlyRegsChange [] s t

/-- The two outcomes agree in all that an instruction with destination registers `ws` can show: the same stop for the same reason, or next
states with the same pc, the same data memory, and the same values in `ws`. -/
def SameEffect (ws : List RegNum) : Result → Result → Prop
  | .next t, .next t' => t'.pc = t.pc ∧ t'.dmem = t.dmem ∧ ∀ r ∈ ws, t'.regVal r = t.regVal r
  | .fault e, .fault e' => e' = e
  | .refused e, .refused e' => e' = e
  | _, _ => False

/-- The access of a load or store at `ea` passes the checks of 41_load_store.md R131: aligned (20_memory.md R45) and inside data memory
(R46). -/
abbrev State.accessOk (s : State) (ea : Nat) : Prop :=
  ea % s.cfg.wordBytes = 0 ∧ ea + s.cfg.wordBytes ≤ s.cfg.dmemBytes

/-- When the instruction completes: no register its rule uses is register 15 (10_state.md R24), BL has its link (42_branch.md R142), a
load or store passes its checks, and the word loaded has a value (41_load_store.md R131, 20_memory.md R44). -/
def Completes (i : Instr) (s : State) : Prop :=
  15#4 ∉ i.reads ++ i.writes ∧
    match i with
    | .bl _ => s.cfg.blLink = .r14Next
    | .ldr f => s.accessOk (s.effAddr f).toNat ∧ ∃ v, s.dmem.readLE (s.effAddr f).toNat s.cfg.wordBytes = some v
    | .str f => s.accessOk (s.effAddr f).toNat
    | _ => True

/-! ### The invariant -/

/-- The invariant of the state: XLEN is one the spec admits (00_scope.md R9), data memory has its canonical form and lies in
0 .. DMEM_BYTES - 1 (10_state.md R35), the program has its canonical form and lies in 0 .. 511 (R34). -/
abbrev State.Inv (s : State) : Prop :=
  s.cfg.Valid ∧ s.dmem.wf ∧ (∀ c ∈ s.dmem, c.1 < s.cfg.dmemBytes) ∧ Rising s.imem ∧ ∀ c ∈ s.imem, c.1 < 512

/-! ### Runs -/

/-- The instruction at the pc, where the program defines the word there and the decoder gives it a meaning. -/
def State.instrAtPc (s : State) : Option Instr :=
  match s.imem.read s.pc with
  | none => none
  | some w =>
    match decode s.cfg.jBeqOverlap w with
    | .ok i => some i
    | .error _ => none

/-- The end of a successful run (70_reset_and_hazards.md R195): the instruction at the pc is a B to its own address, off24[8:0] = 0x1FE,
or a J (which the decoder gives under J_BEQ_OVERLAP = j alone) to its own address. -/
def State.ended (s : State) : Bool :=
  match s.instrAtPc with
  | some (.b off24) => off24.setWidth 9 == 0x1FE#9
  | some (.j target9) => target9 == s.pc
  | _ => false

/-- `t` comes after `s` in some number of completed steps. -/
inductive Reaches (s : State) : State → Prop where
  /-- No step. -/
  | refl : Reaches s s
  /-- One step more. -/
  | tail {t u : State} : Reaches s t → step t = .next u → Reaches s u

/-- The run from `s` ends successfully with the final state `t` (R195). -/
def RunEndsIn (s t : State) : Prop := Reaches s t ∧ t.ended = true

/-- The state `n` steps after `s`, where all of them complete. -/
def State.afterSteps : Nat → State → Option State
  | 0, s => some s
  | n + 1, s =>
    match step s with
    | .next t => t.afterSteps n
    | .fault _ => none
    | .refused _ => none

/-! ### The padding discipline (70_reset_and_hazards.md R200, log entry 28) -/

/-- The `k` words after word address `a` are the NOP word. -/
def nopsAfter (p : Program) : WordAddr → Nat → Bool
  | _, 0 => true
  | a, k + 1 => p.read (a + 1) == some (encode .nop) && nopsAfter p (a + 1) k

/-- After every control transfer of the program come `k` NOPs. -/
def State.branchPadded (s : State) (k : Nat) : Bool :=
  s.imem.all fun c =>
    match decode s.cfg.jBeqOverlap c.2 with
    | .ok i => !i.isControlTransfer || nopsAfter s.imem (BitVec.ofNat 9 c.1) k
    | .error _ => true

/-- In the next `n` instructions of the run from `s`, none reads a register that one of the `k` instructions before it wrote;
`recent` lists what the last instructions wrote, the newest first. -/
def dataPaddedFor (k : Nat) : List (List RegNum) → Nat → State → Bool
  | _, 0, _ => true
  | recent, n + 1, s =>
    match s.instrAtPc with
    | none => true
    | some i =>
      (i.reads.all fun r => recent.all fun ws => !ws.contains r) &&
        match step s with
        | .next t => dataPaddedFor k ((i.writes :: recent).take k) n t
        | .fault _ => true
        | .refused _ => true

/-- Padded(k_branch, k_data) of the run from `s`: after every control transfer come `kBranch` NOPs, and between an instruction that writes
a register and the next that reads it, in execution order, come at least `kData` others. -/
def Padded (kBranch kData : Nat) (s : State) : Prop :=
  s.branchPadded kBranch = true ∧ ∀ n, dataPaddedFor kData [] n s = true

end Sys2Proof.Machine
end

