-- ==== Sys2Proof/Certificates/Slice0/Obligations.lean ====
section
/-! DEFINITION. The statements for the provers. Each holds for every configuration (XLEN, DMEM_BYTES, J_BEQ_OVERLAP, BL_LINK) unless it
names one. A docstring names the log entry a statement rests on where a clause is a choice of the model's or of the spec's own. -/

open Sys2Proof Sys2Proof.Machine

/-! ### Data processing -/

/-- R104, both forms: x[Rd] <- (x[Rn] + op2) mod 2^XLEN; pc <- A + 1; nothing else changes. Names addImm, addReg. That ADD adds is
the spec's reading of the mnemonic, marked so there (log entry 14). -/
def Obligations.AddWritesSumModTwoToXlen : Prop :=
  ∀ s : State, s.cfg.Valid →
    (∀ f : DpiFields, f.rn ≠ 15#4 → f.rd ≠ 15#4 →
      CompletesWriting (.addImm f) s f.rd ((s.regVal f.rn + f.imm8.toNat) % 2 ^ s.cfg.xlen)) ∧
    (∀ f : DprFields, f.rn ≠ 15#4 → f.rm ≠ 15#4 → f.rd ≠ 15#4 →
      CompletesWriting (.addReg f) s f.rd ((s.regVal f.rn + s.regVal f.rm) % 2 ^ s.cfg.xlen))

/-- R105, both forms: x[Rd] <- (x[Rn] - op2) mod 2^XLEN. Names subImm, subReg. That SUB is Rn minus Operand2 is the spec's reading of the
mnemonic, marked so there (log entry 14). -/
def Obligations.SubWritesDifferenceModTwoToXlen : Prop :=
  ∀ s : State, s.cfg.Valid →
    (∀ f : DpiFields, f.rn ≠ 15#4 → f.rd ≠ 15#4 →
      CompletesWriting (.subImm f) s f.rd ((s.regVal f.rn + 2 ^ s.cfg.xlen - f.imm8.toNat) % 2 ^ s.cfg.xlen)) ∧
    (∀ f : DprFields, f.rn ≠ 15#4 → f.rm ≠ 15#4 → f.rd ≠ 15#4 →
      CompletesWriting (.subReg f) s f.rd ((s.regVal f.rn + 2 ^ s.cfg.xlen - s.regVal f.rm) % 2 ^ s.cfg.xlen))

/-- R106, both forms: x[Rd] <- x[Rn] & op2. Names andImm, andReg. That AND is the bitwise conjunction is the spec's reading of the mnemonic,
marked so there (log entry 14). -/
def Obligations.AndWritesConjunction : Prop :=
  ∀ s : State, s.cfg.Valid →
    (∀ f : DpiFields, f.rn ≠ 15#4 → f.rd ≠ 15#4 →
      CompletesWriting (.andImm f) s f.rd (s.regVal f.rn &&& f.imm8.toNat)) ∧
    (∀ f : DprFields, f.rn ≠ 15#4 → f.rm ≠ 15#4 → f.rd ≠ 15#4 →
      CompletesWriting (.andReg f) s f.rd (s.regVal f.rn &&& s.regVal f.rm))

/-- R107, both forms: x[Rd] <- x[Rn] | op2. Names orrImm, orrReg. That ORR is the bitwise inclusive OR is the spec's reading of the mnemonic,
marked so there (log entry 14). -/
def Obligations.OrrWritesInclusiveOr : Prop :=
  ∀ s : State, s.cfg.Valid →
    (∀ f : DpiFields, f.rn ≠ 15#4 → f.rd ≠ 15#4 →
      CompletesWriting (.orrImm f) s f.rd (s.regVal f.rn ||| f.imm8.toNat)) ∧
    (∀ f : DprFields, f.rn ≠ 15#4 → f.rm ≠ 15#4 → f.rd ≠ 15#4 →
      CompletesWriting (.orrReg f) s f.rd (s.regVal f.rn ||| s.regVal f.rm))

/-- R110, both forms: x[Rd] <- x[Rn] ^ op2. Names eorImm, eorReg. That EOR is the bitwise exclusive OR is the spec's reading of the mnemonic,
marked so there (log entry 14). -/
def Obligations.EorWritesExclusiveOr : Prop :=
  ∀ s : State, s.cfg.Valid →
    (∀ f : DpiFields, f.rn ≠ 15#4 → f.rd ≠ 15#4 →
      CompletesWriting (.eorImm f) s f.rd (s.regVal f.rn ^^^ f.imm8.toNat)) ∧
    (∀ f : DprFields, f.rn ≠ 15#4 → f.rm ≠ 15#4 → f.rd ≠ 15#4 →
      CompletesWriting (.eorReg f) s f.rd (s.regVal f.rn ^^^ s.regVal f.rm))

/-- R112, both forms: x[Rd] <- op2, whatever R0 holds. Names movImm, movReg. That the first operand is the constant zero is the spec's
decision D14 (log entry 17). -/
def Obligations.MovWritesOperand2 : Prop :=
  ∀ s : State, s.cfg.Valid →
    (∀ f : MovImmFields, f.rd ≠ 15#4 → CompletesWriting (.movImm f) s f.rd f.imm8.toNat) ∧
    (∀ f : MovRegFields, f.rm ≠ 15#4 → f.rd ≠ 15#4 → CompletesWriting (.movReg f) s f.rd (s.regVal f.rm))

/-- R113, R114, R115: CMP, TST and NOP only advance the pc, for every value of every field, 1111 among them. Names cmpImm, cmpReg, tstImm,
tstReg, nop. That they read no register is the spec's own inference (log entry 18). -/
def Obligations.CmpTstNopOnlyAdvancePc : Prop :=
  ∀ s : State,
    (∀ f : DpiFields, CompletesAt (.cmpImm f) s (s.pc + 1) ∧ CompletesAt (.tstImm f) s (s.pc + 1)) ∧
    (∀ f : DprFields, CompletesAt (.cmpReg f) s (s.pc + 1) ∧ CompletesAt (.tstReg f) s (s.pc + 1)) ∧
    CompletesAt .nop s (s.pc + 1)

/-- R67, R68, R69: S, rot and the ignored bits [11:4] of the eight older instructions have no effect. -/
def Obligations.IgnoredFieldsHaveNoEffect : Prop :=
  ∀ (s : State) (sbit : BitVec 1) (rot : BitVec 4) (ign : BitVec 8),
    (∀ f : DpiFields,
      exec (.addImm ⟨sbit, f.rn, f.rd, rot, f.imm8⟩) s = exec (.addImm f) s ∧
      exec (.subImm ⟨sbit, f.rn, f.rd, rot, f.imm8⟩) s = exec (.subImm f) s ∧
      exec (.andImm ⟨sbit, f.rn, f.rd, rot, f.imm8⟩) s = exec (.andImm f) s ∧
      exec (.orrImm ⟨sbit, f.rn, f.rd, rot, f.imm8⟩) s = exec (.orrImm f) s ∧
      exec (.eorImm ⟨sbit, f.rn, f.rd, rot, f.imm8⟩) s = exec (.eorImm f) s ∧
      exec (.cmpImm ⟨sbit, f.rn, f.rd, rot, f.imm8⟩) s = exec (.cmpImm f) s ∧
      exec (.tstImm ⟨sbit, f.rn, f.rd, rot, f.imm8⟩) s = exec (.tstImm f) s ∧
      exec (.movImm ⟨sbit, f.rd, rot, f.imm8⟩) s = exec (.movImm ⟨f.s, f.rd, f.rot, f.imm8⟩) s) ∧
    (∀ f : DprFields,
      exec (.addReg ⟨sbit, f.rn, f.rd, ign, f.rm⟩) s = exec (.addReg f) s ∧
      exec (.subReg ⟨sbit, f.rn, f.rd, ign, f.rm⟩) s = exec (.subReg f) s ∧
      exec (.andReg ⟨sbit, f.rn, f.rd, ign, f.rm⟩) s = exec (.andReg f) s ∧
      exec (.orrReg ⟨sbit, f.rn, f.rd, ign, f.rm⟩) s = exec (.orrReg f) s ∧
      exec (.eorReg ⟨sbit, f.rn, f.rd, ign, f.rm⟩) s = exec (.eorReg f) s ∧
      exec (.cmpReg ⟨sbit, f.rn, f.rd, ign, f.rm⟩) s = exec (.cmpReg f) s ∧
      exec (.tstReg ⟨sbit, f.rn, f.rd, ign, f.rm⟩) s = exec (.tstReg f) s ∧
      exec (.movReg ⟨sbit, f.rd, ign, f.rm⟩) s = exec (.movReg ⟨f.s, f.rd, f.ignored, f.rm⟩) s)

/-! ### Load and store -/

/-- R130: EA is x[Rn] plus imm12 when U = 1 and minus it when U = 0, modulo 2^XLEN, not scaled. -/
def Obligations.EffectiveAddressAddsOrSubtractsOffset : Prop :=
  ∀ (s : State) (f : LsiFields), s.cfg.Valid →
    (f.u = 1#1 → (s.effAddr f).toNat = (s.regVal f.rn + f.imm12.toNat) % 2 ^ s.cfg.xlen) ∧
    (f.u = 0#1 → (s.effAddr f).toNat = (s.regVal f.rn + 2 ^ s.cfg.xlen - f.imm12.toNat) % 2 ^ s.cfg.xlen)

/-- R132: the word of LDR, and a LDR whose access is aligned and inside data memory: it writes the word at EA to Rd where that word has a
value, and faults where it has none; Rd may be Rn. Names ldr. -/
def Obligations.LdrLoadsWholeWord : Prop :=
  ∀ f : LsiFields,
    encode (.ldr f) = (if f.u = 1#1 then 0xE5900000#32 else 0xE5100000#32) ||| f.rn.setWidth 32 <<< 16 |||
      f.rd.setWidth 32 <<< 12 ||| f.imm12.setWidth 32 ∧
    ∀ s : State, s.cfg.Valid → f.rn ≠ 15#4 → f.rd ≠ 15#4 → s.accessOk (s.effAddr f).toNat →
      (∀ v, s.dmem.readLE (s.effAddr f).toNat s.cfg.wordBytes = some v → CompletesWriting (.ldr f) s f.rd v) ∧
      (s.dmem.readLE (s.effAddr f).toNat s.cfg.wordBytes = none →
        exec (.ldr f) s = .fault (.unwrittenMemory (s.effAddr f).toNat))

/-- R133: the word of STR, and a STR whose access is aligned and inside data memory: it stores all of x[Rd] at EA; no register and no other
byte changes; Rd may be Rn. Names str. -/
def Obligations.StrStoresWholeRegister : Prop :=
  ∀ f : LsiFields,
    encode (.str f) = (if f.u = 1#1 then 0xE5800000#32 else 0xE5000000#32) ||| f.rn.setWidth 32 <<< 16 |||
      f.rd.setWidth 32 <<< 12 ||| f.imm12.setWidth 32 ∧
    ∀ s : State, s.cfg.Valid → f.rn ≠ 15#4 → f.rd ≠ 15#4 → s.accessOk (s.effAddr f).toNat →
      ∃ t, exec (.str f) s = .next t ∧ t.pc = s.pc + 1 ∧
        t.dmem.readLE (s.effAddr f).toNat s.cfg.wordBytes = some (s.regVal f.rd) ∧
        OnlyBytesChange (s.effAddr f).toNat s.cfg.wordBytes s t

/-- R131, R45, R46, R44: where LDR and STR stop, that alignment is checked before range and range before the word's value, and that a STR
completes where the word has no value yet. The step (2) of R131, an unwritten register, does not arise in the model (log entry 1). The stops
are the spec's decisions D7, D8, D28 and D9 (log entries 9 and 25). -/
def Obligations.LoadStoreStopsInOrder : Prop :=
  ∀ (s : State) (f : LsiFields), f.rn ≠ 15#4 → f.rd ≠ 15#4 →
    ((s.effAddr f).toNat % s.cfg.wordBytes ≠ 0 →
      exec (.ldr f) s = .refused (.misalignedAccess (s.effAddr f).toNat) ∧
      exec (.str f) s = .refused (.misalignedAccess (s.effAddr f).toNat)) ∧
    ((s.effAddr f).toNat % s.cfg.wordBytes = 0 → s.cfg.dmemBytes < (s.effAddr f).toNat + s.cfg.wordBytes →
      exec (.ldr f) s = .refused (.accessOutsideMemory (s.effAddr f).toNat) ∧
      exec (.str f) s = .refused (.accessOutsideMemory (s.effAddr f).toNat)) ∧
    (s.accessOk (s.effAddr f).toNat → s.dmem.readLE (s.effAddr f).toNat s.cfg.wordBytes = none →
      exec (.ldr f) s = .fault (.unwrittenMemory (s.effAddr f).toNat) ∧ ∃ t, exec (.str f) s = .next t)

/-- R44, R47: a word of data memory has a value exactly when each of its bytes has one, and the byte at the lowest address is the least
significant. The byte order is the spec's decision D9 (log entry 12). -/
def Obligations.WordsAreLittleEndian : Prop :=
  ∀ (m : Memory) (a n v : Nat),
    m.readLE a n = some v ↔
      ∃ bytes : List Byte, bytes.length = n ∧
        (∀ k (h : k < bytes.length), m.read (a + k) = some bytes[k]) ∧
        v = (bytes.zipIdx.map fun p => p.1.toNat * 256 ^ p.2).sum

/-- R51: a LDR of the word a STR has just stored, through any register and to any register, returns what was stored. That no address of data
memory is a device's is the spec's decision D10 (log entry 31, unsafe). -/
def Obligations.LoadAfterStoreReturnsStoredValue : Prop :=
  ∀ (s t : State) (f g : LsiFields), s.cfg.Valid → exec (.str f) s = .next t →
    g.rn ≠ 15#4 → g.rd ≠ 15#4 → (t.effAddr g).toNat = (s.effAddr f).toNat →
    CompletesWriting (.ldr g) t g.rd (s.regVal f.rd)

/-! ### Branches -/

/-- R141: the word of B; B goes to A + 2 + off24[8:0] modulo 512, for every state and offset. Names b. -/
def Obligations.BranchGoesTwoPastPlusOffset : Prop :=
  ∀ off24 : BitVec 24,
    encode (.b off24) = 0xEA000000#32 ||| off24.setWidth 32 ∧
    ∀ s : State, CompletesAt (.b off24) s (BitVec.ofNat 9 ((s.pc.toNat + 2 + off24.toNat % 512) % 512))

/-- R142: the word of BL; BL writes A + 1 modulo 512 to register 14 and branches as B, under BL_LINK = r14_next; under BL_LINK = refuse it
is refused. Names bl. What BL writes is the spec's decision D19 (log entry 7). -/
def Obligations.BranchLinkWritesReturnAddress : Prop :=
  ∀ off24 : BitVec 24,
    encode (.bl off24) = 0xEB000000#32 ||| off24.setWidth 32 ∧
    ∀ s : State, s.cfg.Valid →
      (s.cfg.blLink = .r14Next →
        ∃ t, exec (.bl off24) s = .next t ∧ t.pc = BitVec.ofNat 9 ((s.pc.toNat + 2 + off24.toNat % 512) % 512) ∧
          t.regVal 14#4 = (s.pc.toNat + 1) % 512 ∧ OnlyRegsChange [14#4] s t) ∧
      (s.cfg.blLink = .refuse → exec (.bl off24) s = .refused .blLinkNotSpecified)

/-- R143, R155: BX goes to the low 9 bits of x[Rm], and JR is identical to BX. Names bx, jr. That the register holds a word address is the
spec's decision D20 (log entry 16). -/
def Obligations.RegisterJumpsUseLowNineBits : Prop :=
  ∀ (s : State) (rm : RegNum), rm ≠ 15#4 →
    CompletesAt (.bx rm) s (BitVec.ofNat 9 (s.regVal rm % 512)) ∧
    CompletesAt (.jr rm) s (BitVec.ofNat 9 (s.regVal rm % 512))

/-- R155: JR is identical to BX in every state, the refusal of register 15 among its outcomes, and its word is BX's. That the decoder answers
BX for the word is R75 step 3 and the model's choice of a name for it (log entry 10, DEDUCED). That JR goes to the low 9 bits of x[Rm] is the
spec's decision D20 (log entry 16). Names jr, bx. -/
def Obligations.JrIsIdenticalToBx : Prop :=
  ∀ rm : RegNum,
    encode (.jr rm) = 0xE12FFF10#32 ||| rm.setWidth 32 ∧ encode (.bx rm) = encode (.jr rm) ∧
    (∀ o, decode o (encode (.jr rm)) = .ok (.bx rm)) ∧
    ∀ s : State, exec (.jr rm) s = exec (.bx rm) s ∧
      (rm ≠ 15#4 → CompletesAt (.jr rm) s (BitVec.ofNat 9 (s.regVal rm % 512)))

/-- R146: after a BL at A, a BX or JR through register 14, in any state in which it still holds what BL wrote, goes to A + 1. What BL writes is
the spec's decision D19 (log entry 7). -/
def Obligations.ReturnThroughR14ResumesAfterCall : Prop :=
  ∀ (s t u : State) (off24 : BitVec 24), s.cfg.Valid → exec (.bl off24) s = .next t → u.regVal 14#4 = t.regVal 14#4 →
    CompletesAt (.bx 14#4) u (s.pc + 1) ∧ CompletesAt (.jr 14#4) u (s.pc + 1)

/-- R140, R160: only the low 9 bits of off24 and off16 matter, and the targets are A + 2 plus the offset read as a signed number, modulo
512. That the base is A is the spec's decision D29 (log entry 19). -/
def Obligations.TargetsUseSignedOffsets : Prop :=
  ∀ a : WordAddr,
    (∀ off24 : BitVec 24, branchTarget24 a off24 = BitVec.ofInt 9 ((a.toNat : Int) + 2 + off24.toInt)) ∧
    (∀ off16 : BitVec 16, branchTarget16 a off16 = BitVec.ofInt 9 ((a.toNat : Int) + 2 + off16.toInt))

/-- R91: with the offset the assembler computes for a label at word address T, B, BL, a taken BEQ or BNE, and J go to T, from every A. That
the base of the offsets is A is the spec's decision D29 (log entry 19). -/
def Obligations.AssemblerOffsetsReachTheLabel : Prop :=
  ∀ (s : State) (t : WordAddr),
    CompletesAt (.b (labelOff24 s.pc t)) s t ∧
    (s.cfg.blLink = .r14Next → ∃ u, exec (.bl (labelOff24 s.pc t)) s = .next u ∧ u.pc = t) ∧
    (∀ rn rm : RegNum, rn ≠ 15#4 → rm ≠ 15#4 →
      (s.regVal rn = s.regVal rm → CompletesAt (.beq ⟨rn, rm, labelOff16 s.pc t⟩) s t) ∧
      (s.regVal rn ≠ s.regVal rm → CompletesAt (.bne ⟨rn, rm, labelOff16 s.pc t⟩) s t)) ∧
    CompletesAt (.j t) s t

/-! ### The new instructions -/

/-- R152: the word of SLL; x[Rd] <- (x[Rn] * 2^sh) mod 2^XLEN with sh = x[Rm][5:0]; and the refusal of register 15. Names sll. -/
def Obligations.SllShiftsLeftBySixBitAmount : Prop :=
  ∀ f : RrrFields,
    encode (.sll f) = 0xE0C00000#32 ||| f.rn.setWidth 32 <<< 16 ||| f.rd.setWidth 32 <<< 12 ||| f.rm.setWidth 32 ∧
    ∀ s : State, s.cfg.Valid →
      (f.rn ≠ 15#4 → f.rm ≠ 15#4 → f.rd ≠ 15#4 →
        CompletesWriting (.sll f) s f.rd ((s.regVal f.rn * 2 ^ (s.regVal f.rm % 64)) % 2 ^ s.cfg.xlen)) ∧
      (f.rn = 15#4 ∨ f.rm = 15#4 ∨ f.rd = 15#4 → exec (.sll f) s = .refused .r15Operand)

/-- R153: the word of SRL; x[Rd] <- floor(x[Rn] / 2^sh) with sh = x[Rm][5:0], zeros coming in at the top; and the refusal of register 15.
Names srl. That the shift is logical is the spec's decision D17 (log entry 15). -/
def Obligations.SrlShiftsRightLogically : Prop :=
  ∀ f : RrrFields,
    encode (.srl f) = 0xE0E00000#32 ||| f.rn.setWidth 32 <<< 16 ||| f.rd.setWidth 32 <<< 12 ||| f.rm.setWidth 32 ∧
    ∀ s : State, s.cfg.Valid →
      (f.rn ≠ 15#4 → f.rm ≠ 15#4 → f.rd ≠ 15#4 →
        CompletesWriting (.srl f) s f.rd (s.regVal f.rn / 2 ^ (s.regVal f.rm % 64))) ∧
      (f.rn = 15#4 ∨ f.rm = 15#4 ∨ f.rd = 15#4 → exec (.srl f) s = .refused .r15Operand)

/-- R154: a shift by XLEN or more gives 0, left or right. It is the spec's decision D17 (log entry 15). -/
def Obligations.ShiftByWidthOrMoreGivesZero : Prop :=
  ∀ (s : State) (f : RrrFields), s.cfg.Valid → f.rn ≠ 15#4 → f.rm ≠ 15#4 → f.rd ≠ 15#4 →
    s.cfg.xlen ≤ s.regVal f.rm % 64 →
    CompletesWriting (.sll f) s f.rd 0 ∧ CompletesWriting (.srl f) s f.rd 0

/-- R157: the word of SLT; x[Rd] <- 1 if signed(x[Rn]) < signed(x[Rm]), else 0, the signed reading of a pattern v being v, or v - 2^XLEN where its top bit is
set; and the refusal of register 15. Names slt. -/
def Obligations.SltComparesSigned : Prop :=
  ∀ f : RrrFields,
    encode (.slt f) = 0xE1600000#32 ||| f.rn.setWidth 32 <<< 16 ||| f.rd.setWidth 32 <<< 12 ||| f.rm.setWidth 32 ∧
    ∀ s : State, s.cfg.Valid →
      (f.rn ≠ 15#4 → f.rm ≠ 15#4 → f.rd ≠ 15#4 → ∀ x y : Int,
        x = (if s.regVal f.rn < 2 ^ (s.cfg.xlen - 1) then (s.regVal f.rn : Int) else (s.regVal f.rn : Int) - 2 ^ s.cfg.xlen) →
        y = (if s.regVal f.rm < 2 ^ (s.cfg.xlen - 1) then (s.regVal f.rm : Int) else (s.regVal f.rm : Int) - 2 ^ s.cfg.xlen) →
        CompletesWriting (.slt f) s f.rd (if x < y then 1 else 0)) ∧
      (f.rn = 15#4 ∨ f.rm = 15#4 ∨ f.rd = 15#4 → exec (.slt f) s = .refused .r15Operand)

/-- R158: the word of J; under J_BEQ_OVERLAP = j the decoder gives J for it; J goes to target9 from every A and changes nothing else. Names
j. -/
def Obligations.JumpGoesToAbsoluteTarget : Prop :=
  ∀ target9 : BitVec 9,
    encode (.j target9) = 0xE8000000#32 ||| target9.setWidth 32 ∧ decode .j (encode (.j target9)) = .ok (.j target9) ∧
    ∀ s : State, CompletesAt (.j target9) s target9

/-- R161: the word of BEQ; BEQ goes to A + 2 + off16[8:0] modulo 512 when x[Rn] = x[Rm] in all XLEN bits, else to A + 1, and the refusal of register 15. Names
beq. -/
def Obligations.BeqBranchesWhenEqual : Prop :=
  ∀ f : Cb16Fields,
    encode (.beq f) = 0xE8000000#32 ||| f.rn.setWidth 32 <<< 20 ||| f.rm.setWidth 32 <<< 16 ||| f.off16.setWidth 32 ∧
    ∀ s : State,
      (f.rn ≠ 15#4 → f.rm ≠ 15#4 →
        CompletesAt (.beq f) s
          (if s.regVal f.rn = s.regVal f.rm then BitVec.ofNat 9 ((s.pc.toNat + 2 + f.off16.toNat % 512) % 512) else s.pc + 1)) ∧
      (f.rn = 15#4 ∨ f.rm = 15#4 → exec (.beq f) s = .refused .r15Operand)

/-- R162: the word of BNE; BNE goes to A + 2 + off16[8:0] modulo 512 when x[Rn] differs from x[Rm], else to A + 1, and the refusal of register 15. Names
bne. -/
def Obligations.BneBranchesWhenNotEqual : Prop :=
  ∀ f : Cb16Fields,
    encode (.bne f) = 0xE9000000#32 ||| f.rn.setWidth 32 <<< 20 ||| f.rm.setWidth 32 <<< 16 ||| f.off16.setWidth 32 ∧
    ∀ s : State,
      (f.rn ≠ 15#4 → f.rm ≠ 15#4 →
        CompletesAt (.bne f) s
          (if s.regVal f.rn ≠ s.regVal f.rm then BitVec.ofNat 9 ((s.pc.toNat + 2 + f.off16.toNat % 512) % 512) else s.pc + 1)) ∧
      (f.rn = 15#4 ∨ f.rm = 15#4 → exec (.bne f) s = .refused .r15Operand)

/-! ### Encoding and decoding -/

/-- R75, R77, R155: the decoder gives back every well-formed instruction from its word, with every field, under every setting of
J_BEQ_OVERLAP; for JR it gives BX. That ARM's MRS words are TST and CMP, against R178, is the model's choice (log entry 32, DESIGN CHOICE). -/
def Obligations.DecodeOfEncodeIsIdentity : Prop :=
  ∀ (o : JBeqOverlap) (i : Instr), i.wellFormed o = true → decode o (encode i) = .ok i.canonical

/-- R75: whatever the decoder gives is well-formed, is no JR, and encodes to the very word: no bit of a word is dropped. -/
def Obligations.EncodeOfDecodeIsIdentity : Prop :=
  ∀ (o : JBeqOverlap) (w : InstrWord) (i : Instr), decode o w = .ok i →
    encode i = w ∧ i.wellFormed o = true ∧ i.canonical = i

/-- opcode_table.json: a word is some instruction's exactly when it matches a row of the table, but for the 512 words of R79 under
J_BEQ_OVERLAP = refuse, which match two rows and are refused. The overlap is the spec's decision D21 (log entry 6), the refusal of all other
words D12, D13, D15, D16, D27 (log entry 24). That ARM's MRS words are TST and CMP, against R178, is the model's choice (log entry 32,
DESIGN CHOICE). -/
def Obligations.DecoderAcceptsExactlyTheTable : Prop :=
  ∀ (o : JBeqOverlap) (w : InstrWord),
    (∃ i, decode o w = .ok i) ↔
      (∃ r ∈ opcodeTable, w &&& r.mask = r.value) ∧ ¬ (o = .refuse ∧ w &&& 0xFFFFFE00#32 = 0xE8000000#32)

/-- R62: a word is refused with CondNotAlways exactly when its cond field is not 1110. It is the spec's decision D12 (log entry 24). -/
def Obligations.CondNotAlwaysIsRefused : Prop :=
  ∀ (o : JBeqOverlap) (w : InstrWord), decode o w = .error .condNotAlways ↔ w.extractLsb' 28 4 ≠ 0b1110#4

/-- R80: the data-processing opcodes without an instruction are reserved, with either I, and so is opcode 1001 but for the BX words. It is the
spec's decision D13 (log entry 24). -/
def Obligations.UnlistedOpcodesAreReserved : Prop :=
  ∀ (o : JBeqOverlap) (w : InstrWord), w.extractLsb' 28 4 = 0b1110#4 → w.extractLsb' 26 2 = 0b00#2 →
    (w.extractLsb' 21 4 ∈ [0b0011#4, 0b0101#4, 0b1110#4, 0b1111#4] ∨
      w.extractLsb' 21 4 = 0b1001#4 ∧ w &&& 0xFFFFFFF0#32 ≠ 0xE12FFF10#32) →
    decode o w = .error .reservedEncoding

/-- R81, R156: opcodes 0110 and 0111 with I = 1 are refused with ShiftByOneNotSpecified, the only words that are; opcode 1011 with I = 1, and
opcodes 0110, 0111, 1011 with I = 0 and S or a bit of [11:4] set, are reserved. It is the spec's decisions D15 and D16 (log entry 24). -/
def Obligations.UnshownFormsOfNewOpcodesAreRefused : Prop :=
  ∀ (o : JBeqOverlap) (w : InstrWord),
    (decode o w = .error .shiftByOneNotSpecified ↔
      w.extractLsb' 28 4 = 0b1110#4 ∧ w.extractLsb' 26 2 = 0b00#2 ∧ w.extractLsb' 25 1 = 1#1 ∧
        w.extractLsb' 21 4 ∈ [0b0110#4, 0b0111#4]) ∧
    (w.extractLsb' 28 4 = 0b1110#4 → w.extractLsb' 26 2 = 0b00#2 →
      (w.extractLsb' 25 1 = 1#1 ∧ w.extractLsb' 21 4 = 0b1011#4 ∨
        w.extractLsb' 25 1 = 0#1 ∧ w.extractLsb' 21 4 ∈ [0b0110#4, 0b0111#4, 0b1011#4] ∧
          (w.extractLsb' 20 1 = 1#1 ∨ w.extractLsb' 4 8 ≠ 0#8)) →
      decode o w = .error .reservedEncoding)

/-- R82: a load or store with bit 25 = 1, P = 0, B = 1 or W = 1 is reserved. It is the spec's decision D27 (log entry 24). -/
def Obligations.UnshownLoadStoreFormsAreReserved : Prop :=
  ∀ (o : JBeqOverlap) (w : InstrWord), w.extractLsb' 28 4 = 0b1110#4 → w.extractLsb' 26 2 = 0b01#2 →
    (w.extractLsb' 25 1 = 1#1 ∨ w.extractLsb' 24 1 = 0#1 ∨ w.extractLsb' 22 1 = 1#1 ∨ w.extractLsb' 21 1 = 1#1) →
    decode o w = .error .reservedEncoding

/-- R83: every word of class op = 11 is reserved. It is the spec's decision D13 (log entry 24). -/
def Obligations.ClassElevenIsReserved : Prop :=
  ∀ (o : JBeqOverlap) (w : InstrWord), w.extractLsb' 28 4 = 0b1110#4 → w.extractLsb' 26 2 = 0b11#2 →
    decode o w = .error .reservedEncoding

/-- R84: MOV with a non-zero Rn field is reserved, in both forms. It is the spec's decision D14 (log entry 17). -/
def Obligations.MovWithNonZeroRnIsReserved : Prop :=
  ∀ (o : JBeqOverlap) (w : InstrWord), w.extractLsb' 28 4 = 0b1110#4 → w.extractLsb' 26 2 = 0b00#2 →
    w.extractLsb' 21 4 = 0b1101#4 → w.extractLsb' 16 4 ≠ 0#4 → decode o w = .error .reservedEncoding

/-- R79: the 512 words are refused, are J, or are BEQ R0,R0, as J_BEQ_OVERLAP says; every other word of inst[27:24] = 1000 is BEQ under every
setting. It is the spec's decision D21 (log entry 6). -/
def Obligations.OverlapSettlesJAndBeq : Prop :=
  (∀ target9 : BitVec 9,
    decode .refuse (0xE8000000#32 ||| target9.setWidth 32) = .error .ambiguousJOrBeq ∧
    decode .j (0xE8000000#32 ||| target9.setWidth 32) = .ok (.j target9) ∧
    decode .beq (0xE8000000#32 ||| target9.setWidth 32) = .ok (.beq ⟨0, 0, target9.setWidth 16⟩)) ∧
  (∀ (o : JBeqOverlap) (f : Cb16Fields), f.rn ≠ 0#4 ∨ f.rm ≠ 0#4 ∨ 512 ≤ f.off16.toNat →
    decode o (encode (.beq f)) = .ok (.beq f))

/-- R64, R65, R66: the words of the sixteen data-processing forms, each field in its place. For MOV the Rn field is 0000 (R84). -/
def Obligations.DataProcessingWordsAreTheFormats : Prop :=
  (∀ f : DpiFields, ∃ low : InstrWord,
    low = f.s.setWidth 32 <<< 20 ||| f.rn.setWidth 32 <<< 16 ||| f.rd.setWidth 32 <<< 12 ||| f.rot.setWidth 32 <<< 8 |||
      f.imm8.setWidth 32 ∧
    encode (.addImm f) = 0xE2000000#32 ||| 0b0100#32 <<< 21 ||| low ∧
    encode (.subImm f) = 0xE2000000#32 ||| 0b0010#32 <<< 21 ||| low ∧
    encode (.andImm f) = 0xE2000000#32 ||| 0b0000#32 <<< 21 ||| low ∧
    encode (.orrImm f) = 0xE2000000#32 ||| 0b1100#32 <<< 21 ||| low ∧
    encode (.eorImm f) = 0xE2000000#32 ||| 0b0001#32 <<< 21 ||| low ∧
    encode (.cmpImm f) = 0xE2000000#32 ||| 0b1010#32 <<< 21 ||| low ∧
    encode (.tstImm f) = 0xE2000000#32 ||| 0b1000#32 <<< 21 ||| low ∧
    (f.rn = 0 → encode (.movImm ⟨f.s, f.rd, f.rot, f.imm8⟩) = 0xE2000000#32 ||| 0b1101#32 <<< 21 ||| low)) ∧
  (∀ f : DprFields, ∃ low : InstrWord,
    low = f.s.setWidth 32 <<< 20 ||| f.rn.setWidth 32 <<< 16 ||| f.rd.setWidth 32 <<< 12 ||| f.ignored.setWidth 32 <<< 4 |||
      f.rm.setWidth 32 ∧
    encode (.addReg f) = 0xE0000000#32 ||| 0b0100#32 <<< 21 ||| low ∧
    encode (.subReg f) = 0xE0000000#32 ||| 0b0010#32 <<< 21 ||| low ∧
    encode (.andReg f) = 0xE0000000#32 ||| 0b0000#32 <<< 21 ||| low ∧
    encode (.orrReg f) = 0xE0000000#32 ||| 0b1100#32 <<< 21 ||| low ∧
    encode (.eorReg f) = 0xE0000000#32 ||| 0b0001#32 <<< 21 ||| low ∧
    encode (.cmpReg f) = 0xE0000000#32 ||| 0b1010#32 <<< 21 ||| low ∧
    encode (.tstReg f) = 0xE0000000#32 ||| 0b1000#32 <<< 21 ||| low ∧
    (f.rn = 0 → encode (.movReg ⟨f.s, f.rd, f.ignored, f.rm⟩) = 0xE0000000#32 ||| 0b1101#32 <<< 21 ||| low))

/-- R90: the word of each instruction with every register field, offset and immediate zero, the column "fields" of the table; and what the
source's misprinted words decode to. For 0xE2C00000 and 0xE2D00000 the last column says "reserved"; the decoder's answer is R81's,
ShiftByOneNotSpecified. The refusals are the spec's decisions D13, D15 and D16 (log entry 24). -/
def Obligations.CanonicalWordsAreTheTables : Prop :=
  encode (.addImm ⟨0, 0, 0, 0, 0⟩) = 0xE2800000 ∧ encode (.addReg ⟨0, 0, 0, 0, 0⟩) = 0xE0800000 ∧
  encode (.subImm ⟨0, 0, 0, 0, 0⟩) = 0xE2400000 ∧ encode (.subReg ⟨0, 0, 0, 0, 0⟩) = 0xE0400000 ∧
  encode (.andImm ⟨0, 0, 0, 0, 0⟩) = 0xE2000000 ∧ encode (.andReg ⟨0, 0, 0, 0, 0⟩) = 0xE0000000 ∧
  encode (.orrImm ⟨0, 0, 0, 0, 0⟩) = 0xE3800000 ∧ encode (.orrReg ⟨0, 0, 0, 0, 0⟩) = 0xE1800000 ∧
  encode (.movImm ⟨0, 0, 0, 0⟩) = 0xE3A00000 ∧ encode (.movReg ⟨0, 0, 0, 0⟩) = 0xE1A00000 ∧
  encode (.eorImm ⟨0, 0, 0, 0, 0⟩) = 0xE2200000 ∧ encode (.eorReg ⟨0, 0, 0, 0, 0⟩) = 0xE0200000 ∧
  encode (.cmpImm ⟨0, 0, 0, 0, 0⟩) = 0xE3400000 ∧ encode (.cmpReg ⟨0, 0, 0, 0, 0⟩) = 0xE1400000 ∧
  encode (.tstImm ⟨0, 0, 0, 0, 0⟩) = 0xE3000000 ∧ encode (.tstReg ⟨0, 0, 0, 0, 0⟩) = 0xE1000000 ∧
  encode (.ldr ⟨1, 0, 0, 0⟩) = 0xE5900000 ∧ encode (.ldr ⟨0, 0, 0, 0⟩) = 0xE5100000 ∧
  encode (.str ⟨1, 0, 0, 0⟩) = 0xE5800000 ∧ encode (.str ⟨0, 0, 0, 0⟩) = 0xE5000000 ∧
  encode (.b 0) = 0xEA000000 ∧ encode (.bl 0) = 0xEB000000 ∧ encode (.bx 0) = 0xE12FFF10 ∧ encode (.jr 0) = 0xE12FFF10 ∧
  encode .nop = 0xE0000000 ∧ encode (.sll ⟨0, 0, 0⟩) = 0xE0C00000 ∧ encode (.srl ⟨0, 0, 0⟩) = 0xE0E00000 ∧
  encode (.slt ⟨0, 0, 0⟩) = 0xE1600000 ∧ encode (.j 0) = 0xE8000000 ∧ encode (.beq ⟨0, 0, 0⟩) = 0xE8000000 ∧
  encode (.bne ⟨0, 0, 0⟩) = 0xE9000000 ∧
  ∀ o : JBeqOverlap,
    decode o 0xE2200000 = .ok (.eorImm ⟨0, 0, 0, 0, 0⟩) ∧ decode o 0xE0200000 = .ok (.eorReg ⟨0, 0, 0, 0, 0⟩) ∧
    decode o 0xE2C00000 = .error .shiftByOneNotSpecified ∧ decode o 0xE0C00000 = .ok (.sll ⟨0, 0, 0⟩) ∧
    decode o 0xE2D00000 = .error .shiftByOneNotSpecified ∧ decode o 0xE0D00000 = .error .reservedEncoding ∧
    decode o 0xE2100000 = .ok (.andImm ⟨1, 0, 0, 0, 0⟩) ∧ decode o 0xE0100000 = .ok (.andReg ⟨1, 0, 0, 0, 0⟩) ∧
    decode o 0xE2A00000 = .error .reservedEncoding ∧ decode o 0xE0A00000 = .error .reservedEncoding ∧
    decode o 0xE2800000 = .ok (.addImm ⟨0, 0, 0, 0, 0⟩) ∧ decode o 0xE0800000 = .ok (.addReg ⟨0, 0, 0, 0, 0⟩)

/-- 95_test_vectors.md: words of the spec's examples, one per family, and what they decode to. -/
def Obligations.ExampleWordsDecode : Prop :=
  decode .refuse 0xE2821005 = .ok (.addImm ⟨0, 2, 1, 0, 5⟩) ∧
  decode .refuse 0xE0454006 = .ok (.subReg ⟨0, 5, 4, 0, 6⟩) ∧
  decode .refuse 0xE0000000 = .ok .nop ∧
  decode .refuse 0xE5043FFF = .ok (.str ⟨0, 4, 3, 4095⟩) ∧
  decode .refuse 0xEB000058 = .ok (.bl 88) ∧
  decode .refuse 0xE12FFF1E = .ok (.bx 14) ∧
  decode .refuse 0xE0C21003 = .ok (.sll ⟨2, 1, 3⟩) ∧
  decode .refuse 0xE912FFF8 = .ok (.bne ⟨1, 2, 0xFFF8⟩) ∧
  decode .j 0xE8000005 = .ok (.j 5) ∧
  decode .refuse 0xE3A21001 = .error .reservedEncoding

/-! ### The step and the machine -/

/-- R14, R41: a step is the execution of the instruction the decoder gives for the word at the pc; a word the program does not define is
refused, and so is a word the decoder refuses. That a step adds nothing around exec is the spec's decision D22 (log entry 13); the refusals
are log entries 8 and 24. -/
def Obligations.StepRunsDecodedInstruction : Prop :=
  ∀ s : State,
    (∀ w i, s.imem.read s.pc = some w → decode s.cfg.jBeqOverlap w = .ok i → step s = exec i s) ∧
    (∀ w e, s.imem.read s.pc = some w → decode s.cfg.jBeqOverlap w = .error e → step s = .refused (.undecodable e)) ∧
    (s.imem.read s.pc = none → step s = .refused (.fetchOutsideProgram s.pc))

/-- Log entry 8: a word loaded where the machine fetches next is the word the program has at the pc, and nothing else has changed: the
configuration, the pc, every register, every byte of data memory and every other word of the program are as before. Where the word decodes,
the next step runs its instruction. -/
def Obligations.LoadedWordRunsNext : Prop :=
  ∀ (s t : State) (w : InstrWord), t = s.withFetchWord 32 w.toNat →
    t.cfg = s.cfg ∧ t.pc = s.pc ∧ (∀ r, t.regVal r = s.regVal r) ∧ (∀ a, t.dmem.read a = s.dmem.read a) ∧
    (∀ a, t.imem.read a = if a = s.pc then some w else s.imem.read a) ∧
    ∀ i, decode s.cfg.jBeqOverlap w = .ok i → step t = exec i t

/-- R24: every instruction whose rule uses register 15, to read or to write, is refused, before every other check (R173). It is the spec's
decision D3 (log entry 11). -/
def Obligations.RegisterFifteenIsRefused : Prop :=
  ∀ (i : Instr) (s : State), 15#4 ∈ i.reads ++ i.writes → exec i s = .refused .r15Operand

/-- R171, R173: the closed list of an instruction's stops, each with its cause: R15Operand for a register 15 used, BL's refusal for BL_LINK =
refuse, the refusals of an access for its address, alignment before range, and the fault of a load for a word without a value. The
list is R171's without UnwrittenRegister, which the model does not have (log entry 1). -/
def Obligations.StopsAreTheSpecsClosedList : Prop :=
  ∀ (i : Instr) (s : State),
    (∀ e, exec i s = .fault e →
      ∃ f, i = .ldr f ∧ e = .unwrittenMemory (s.effAddr f).toNat ∧ 15#4 ∉ i.reads ++ i.writes ∧
        s.accessOk (s.effAddr f).toNat ∧ s.dmem.readLE (s.effAddr f).toNat s.cfg.wordBytes = none) ∧
    (∀ e, exec i s = .refused e →
      e = .r15Operand ∧ 15#4 ∈ i.reads ++ i.writes ∨
      (∃ off24, i = .bl off24 ∧ e = .blLinkNotSpecified ∧ s.cfg.blLink = .refuse) ∨
      ∃ f, (i = .ldr f ∨ i = .str f) ∧ 15#4 ∉ i.reads ++ i.writes ∧
        (e = .misalignedAccess (s.effAddr f).toNat ∧ (s.effAddr f).toNat % s.cfg.wordBytes ≠ 0 ∨
          e = .accessOutsideMemory (s.effAddr f).toNat ∧ (s.effAddr f).toNat % s.cfg.wordBytes = 0 ∧
            s.cfg.dmemBytes < (s.effAddr f).toNat + s.cfg.wordBytes))

/-- When an instruction completes, over all instructions and states: exactly when it uses no register 15, BL has its link, and a load or store
passes its checks (R24, R142, R131, R44). Ordinary data never stop a run; that no register is unwritten is the model's choice (log entry 1,
DESIGN CHOICE). The refusals are the spec's decisions (log entries 7, 9, 11, 21 and 25). -/
def Obligations.InstructionsCompleteExactlyWhen : Prop :=
  ∀ (i : Instr) (s : State), (∃ t, exec i s = .next t) ↔ Completes i s

/-- R27, R28: an instruction that is no control transfer sets pc to A + 1 modulo 512. It is the spec's decision D5 (log entry 19). -/
def Obligations.OtherInstructionsAdvancePcByOne : Prop :=
  ∀ (i : Instr) (s t : State), i.isControlTransfer = false → exec i s = .next t →
    t.pc.toNat = (s.pc.toNat + 1) % 512

/-- R37: the frame of every instruction. The configuration and the program never change; a register changes only if it is one the instruction
writes (Rd; register 14 for BL); a byte of data memory changes only if a STR stores to it. -/
def Obligations.InstructionsChangeOnlyTheirDestinations : Prop :=
  ∀ (i : Instr) (s t : State), exec i s = .next t →
    t.cfg = s.cfg ∧ t.imem = s.imem ∧
    (∀ r, r ∉ i.writes → t.regVal r = s.regVal r) ∧
    (∀ a, (∀ f, i = .str f → a < (s.effAddr f).toNat ∨ (s.effAddr f).toNat + s.cfg.wordBytes ≤ a) →
      t.dmem.read a = s.dmem.read a)

/-- R37: an instruction's effect depends on no register but those it reads: two states that differ only in other registers stop alike, or go to
the same pc with the same data memory and the same values in the registers written. -/
def Obligations.EffectDependsOnlyOnRegistersRead : Prop :=
  ∀ (i : Instr) (s : State) (regs : Vector (BitVec s.cfg.xlen) 16),
    (∀ r ∈ i.reads, ({ s with regs := regs } : State).regVal r = s.regVal r) →
    SameEffect i.writes (exec i s) (exec i { s with regs := regs })

/-- Every step keeps the invariant of the state: XLEN is one the spec admits (R9), data memory keeps its canonical form and lies below DMEM_BYTES
(R35, R46), the program keeps its canonical form and lies in 0 .. 511 (R34). -/
def Obligations.StepKeepsInvariant : Prop :=
  ∀ s t : State, s.Inv → step s = .next t → t.Inv

/-- The invariant holds at reset. The configuration of reset is the model's choice (log entries 3 to 7). -/
def Obligations.InvariantHoldsAtReset : Prop := State.reset.Inv

/-- R54, R193: no run changes the program, so no program modifies itself, nor the configuration. That the two memories are separate is the
spec's decision D11 (log entry 20). -/
def Obligations.RunsNeverChangeTheProgram : Prop :=
  ∀ s t : State, Reaches s t → t.imem = s.imem ∧ t.cfg = s.cfg

/-- R24: no run changes register 15. It is the spec's decision D3 (log entry 11). -/
def Obligations.RunsNeverChangeRegisterFifteen : Prop :=
  ∀ s t : State, Reaches s t → t.regVal 15#4 = s.regVal 15#4

/-- R190 to R194: a launch puts the pc at RESET_PC, the program and the initial data memory as given, and each of the registers 0 to 14 that
InitRegs names at its value. The launch parameters are the spec's decisions D24 and D26 (log entry 30). -/
def Obligations.LaunchPlacesItsParameters : Prop :=
  ∀ (c : Config) (p : Program) (m : Memory) (initRegs : List (Nat × Nat)),
    (State.launch c p m initRegs).cfg = c ∧ (State.launch c p m initRegs).pc = c.resetPc ∧
    (State.launch c p m initRegs).imem = p ∧ (State.launch c p m initRegs).dmem = m ∧
    (∀ (r : RegNum) (v : Nat), r ≠ 15#4 → lookup initRegs r.toNat = some v → v < 2 ^ c.xlen →
      (State.launch c p m initRegs).regVal r = v)

/-- The machine after reset: the pc at RESET_PC, no byte of data memory and no word of the program has a value, and every register holds what
the model chose for a register nothing has written (log entries 1, 5, 8, 9). -/
def Obligations.ResetStateIsAsDeclared : Prop :=
  State.reset.pc = launchConfig.resetPc ∧ State.reset.cfg = launchConfig ∧
  (∀ a, State.reset.dmem.read a = none) ∧ (∀ a, State.reset.imem.read a = none) ∧
  (∀ r, State.reset.regVal r = unwrittenRegister) ∧ step State.reset = .refused (.fetchOutsideProgram launchConfig.resetPc)

/-- R195: at the end of a run, a B or a J to itself, a step completes and changes nothing. That this is the end of a run is the spec's decision
D25 (log entry 27). -/
def Obligations.EndedRunsStayPut : Prop :=
  ∀ s : State, s.ended = true → step s = .next s

/-- R195: the final state of a run is unique: two successful ends of runs from one state are the same state. -/
def Obligations.FinalStateIsUnique : Prop :=
  ∀ s t u : State, RunEndsIn s t → RunEndsIn s u → t = u

/-- R200: what Padded(k_branch, k_data) means. The k_branch words after each control transfer of the program are NOP words; and in the run, no
instruction reads a register that one of the k_data instructions before it wrote: where the instruction i at step n is followed, m + 1 steps
later with m < k_data, by the instruction j, no register that j reads is one that i writes. The discipline is the spec's own suggestion
(decision D22), and the form of the check is the model's (log entry 28). -/
def Obligations.PaddedKeepsNopsAndDistance : Prop :=
  ∀ (s : State) (kBranch kData : Nat), s.Inv →
    (Padded kBranch kData s ↔
      (∀ (a : WordAddr) (w : InstrWord) (i : Instr), s.imem.read a = some w → decode s.cfg.jBeqOverlap w = .ok i →
        i.isControlTransfer = true → ∀ k < kBranch, s.imem.read (a + 1 + BitVec.ofNat 9 k) = some 0xE0000000#32) ∧
      (∀ (n m : Nat) (t u : State) (i j : Instr), s.afterSteps n = some t → t.afterSteps (m + 1) = some u → m < kData →
        t.instrAtPc = some i → u.instrAtPc = some j → ∀ r ∈ j.reads, r ∉ i.writes))
end

