-- ==== Sys2Proof/Laws/Decode.lean ====
section
/-! SUPPORT. Fields of a concatenation, and the fields of each format's words: what a proof about decode and encode cites. -/

namespace Sys2Proof

/-! ### Fields of a concatenation -/

theorem extract_append_low {n m : Nat} (x : BitVec n) (y : BitVec m) {lo len : Nat} (h : lo + len ≤ m) :
    (x ++ y).extractLsb' lo len = y.extractLsb' lo len := by
  ext i hi
  simp [BitVec.getLsbD_append, show lo + i < m by omega]

theorem extract_append_high {n m : Nat} (x : BitVec n) (y : BitVec m) {lo len : Nat} (h : m ≤ lo) :
    (x ++ y).extractLsb' lo len = x.extractLsb' (lo - m) len := by
  ext i hi
  simp [BitVec.getLsbD_append, show ¬ lo + i < m by omega, show lo + i - m = lo - m + i by omega]

/-- A field of a field. -/
theorem extract_extract {n : Nat} (x : BitVec n) {lo len lo' len' : Nat} (h : lo' + len' ≤ len) :
    (x.extractLsb' lo len).extractLsb' lo' len' = x.extractLsb' (lo + lo') len' := by
  ext i hi
  simp [show lo' + i < len by omega, Nat.add_assoc]

/-- Two adjacent fields make one. -/
theorem extract_join {n : Nat} (x : BitVec n) {hi lo a b : Nat} (h : hi = lo + b) :
    x.extractLsb' hi a ++ x.extractLsb' lo b = x.extractLsb' lo (a + b) :=
  BitVec.extractLsb'_append_extractLsb'_eq_extractLsb' h

/-! ### A word that is NOP or BX, told by its opcode field -/

/-- The BX word has opcode 1001. -/
theorem opcodeField_of_bx {w : InstrWord} (h : w.extractLsb' 4 28 = 0xE12FFF1#28) : opcodeField w = 0b1001#4 := by
  have := congrArg (BitVec.extractLsb' 17 4) h
  rw [extract_extract _ (by omega)] at this
  exact this

/-- The BX word is in class op = 00. -/
theorem opField_of_bx {w : InstrWord} (h : w.extractLsb' 4 28 = 0xE12FFF1#28) : opField w = 0b00#2 := by
  have := congrArg (BitVec.extractLsb' 22 2) h
  rw [extract_extract _ (by omega)] at this
  exact this

/-! ### The fields of each format's words -/

theorem encodeDpi_fields (op : BitVec 4) (f : DpiFields) :
    condField (encodeDpi op f) = 0b1110#4 ∧ opField (encodeDpi op f) = 0b00#2 ∧ iField (encodeDpi op f) = 1#1 ∧
      opcodeField (encodeDpi op f) = op ∧ dpiFields (encodeDpi op f) = f := by
  unfold encodeDpi
  simp (disch := omega) only [dpiFields, condField, opField, iField, opcodeField, extract_append_low, extract_append_high]
  simp

theorem encodeDpr_fields (op : BitVec 4) (f : DprFields) :
    condField (encodeDpr op f) = 0b1110#4 ∧ opField (encodeDpr op f) = 0b00#2 ∧ iField (encodeDpr op f) = 0#1 ∧
      opcodeField (encodeDpr op f) = op ∧ dprFields (encodeDpr op f) = f := by
  unfold encodeDpr
  simp (disch := omega) only [dprFields, condField, opField, iField, opcodeField, extract_append_low, extract_append_high]
  simp

theorem encodeRrr_fields (op : BitVec 4) (f : RrrFields) :
    condField (encodeRrr op f) = 0b1110#4 ∧ opField (encodeRrr op f) = 0b00#2 ∧ iField (encodeRrr op f) = 0#1 ∧
      opcodeField (encodeRrr op f) = op ∧ (encodeRrr op f).extractLsb' 20 1 = 0#1 ∧
      (encodeRrr op f).extractLsb' 4 8 = 0#8 ∧ rrrFields (encodeRrr op f) = f := by
  unfold encodeRrr
  simp (disch := omega) only [rrrFields, condField, opField, iField, opcodeField, extract_append_low, extract_append_high]
  refine ⟨by decide, by decide, ?_, by simp, by simp, by simp, by simp⟩
  simp

theorem encodeLsi_fields (l : BitVec 1) (f : LsiFields) :
    condField (encodeLsi l f) = 0b1110#4 ∧ opField (encodeLsi l f) = 0b01#2 ∧
      (encodeLsi l f).extractLsb' 24 2 = 0b01#2 ∧ (encodeLsi l f).extractLsb' 21 2 = 0b00#2 ∧
      (encodeLsi l f).extractLsb' 20 1 = l ∧ lsiFields (encodeLsi l f) = f := by
  unfold encodeLsi
  simp (disch := omega) only [lsiFields, condField, opField, extract_append_low, extract_append_high]
  refine ⟨by decide, by decide, by decide, ?_, by simp, by simp⟩
  rw [BitVec.append_assoc, BitVec.extractLsb'_cast]
  exact extract_append_low _ (0#1 ++ 0#1) (by decide)

theorem encodeCb16_fields (k : BitVec 4) (f : Cb16Fields) :
    condField (encodeCb16 k f) = 0b1110#4 ∧ (encodeCb16 k f).extractLsb' 24 4 = k ∧ cb16Fields (encodeCb16 k f) = f := by
  unfold encodeCb16
  simp (disch := omega) only [cb16Fields, condField, extract_append_low, extract_append_high]
  simp

end Sys2Proof
end

