-- ==== Sys2Proof/Laws/Memory.lean ====
section
/-! SUPPORT. What the operations over sparse memories do, and that each keeps the canonical form. -/

namespace Sys2Proof.Machine

/-! ### lookup and update -/

/-- An address reads back what was put there, and every other address keeps its value. -/
theorem lookup_update {α : Type} (l : List (Nat × α)) (a b : Nat) (v : α) :
    lookup (update l a v) b = if b = a then some v else lookup l b := by
  induction l with
  | nil => simp [update, lookup]
  | cons c rest ih =>
    obtain ⟨k, u⟩ := c
    simp only [update]
    split
    · simp [lookup]
    · split
      · subst k
        simp only [lookup]
        split <;> rfl
      · simp only [lookup, ih]
        split <;> split <;> first | rfl | omega

/-- The addresses of an updated list are the old ones and the new one. -/
theorem mem_update {α : Type} {l : List (Nat × α)} {a : Nat} {v : α} {c : Nat × α} (h : c ∈ update l a v) :
    c = (a, v) ∨ c ∈ l := by
  induction l with
  | nil => simpa [update] using h
  | cons d rest ih =>
    obtain ⟨k, u⟩ := d
    simp only [update] at h
    split at h
    · simpa using h
    · split at h
      · rcases List.mem_cons.mp h with h | h
        · exact .inl h
        · exact .inr (List.mem_cons_of_mem _ h)
      · rcases List.mem_cons.mp h with h | h
        · exact .inr (h ▸ List.mem_cons_self)
        · exact (ih h).imp_right (List.mem_cons_of_mem _)

/-- An update keeps the canonical form. -/
theorem rising_update {α : Type} {l : List (Nat × α)} (h : Rising l) (a : Nat) (v : α) : Rising (update l a v) := by
  induction l with
  | nil => exact List.pairwise_singleton _ _
  | cons c rest ih =>
    obtain ⟨k, u⟩ := c
    obtain ⟨hk, hrest⟩ := List.pairwise_cons.mp h
    simp only [update]
    split
    · refine List.pairwise_cons.mpr ⟨fun d hd => ?_, h⟩
      rcases List.mem_cons.mp hd with rfl | hd
      · assumption
      · exact Nat.lt_trans ‹_› (hk d hd)
    · split
      · subst k
        exact List.pairwise_cons.mpr ⟨hk, hrest⟩
      · refine List.pairwise_cons.mpr ⟨fun d hd => ?_, ih hrest⟩
        rcases mem_update hd with rfl | hd
        · show k < a
          omega
        · exact hk d hd

/-! ### Bytes -/

@[simp] theorem Memory.read_write (m : Memory) (a b : Nat) (v : Byte) :
    (m.write a v).read b = if b = a then some v else m.read b := lookup_update m a b v

theorem Memory.wf_write {m : Memory} (h : m.wf) (a : Nat) (v : Byte) : (m.write a v).wf := rising_update h a v

/-! ### Words -/

/-- Storing n bytes at `a` keeps the canonical form. -/
theorem Memory.wf_writeLE {m : Memory} (h : m.wf) (a n v : Nat) : (m.writeLE a n v).wf := by
  induction n generalizing m a v with
  | zero => exact h
  | succ n ih => exact ih (Memory.wf_write h _ _) _ _

/-- Storing n bytes at `a` lists no address outside a .. a + n - 1 that was not listed. -/
theorem Memory.mem_writeLE {m : Memory} {a n v : Nat} {c : Host.Cell} (h : c ∈ m.writeLE a n v) :
    c ∈ m ∨ a ≤ c.1 ∧ c.1 < a + n := by
  induction n generalizing m a v with
  | zero => exact .inl h
  | succ n ih =>
    rcases ih h with h | h
    · rcases mem_update h with rfl | h
      · exact .inr ⟨Nat.le_refl _, by simp⟩
      · exact .inl h
    · exact .inr (by omega)

/-- Outside the stored bytes nothing changes. -/
theorem Memory.read_writeLE_outside (m : Memory) {a n v b : Nat} (h : b < a ∨ a + n ≤ b) :
    (m.writeLE a n v).read b = m.read b := by
  induction n generalizing m a v with
  | zero => rfl
  | succ n ih =>
    show ((m.write a _).writeLE (a + 1) n _).read b = _
    rw [ih _ (by omega), Memory.read_write, if_neg (by omega)]

/-- A word reads back modulo 256^n as it was stored. -/
theorem Memory.readLE_writeLE (m : Memory) (a n v : Nat) : (m.writeLE a n v).readLE a n = some (v % 256 ^ n) := by
  induction n generalizing m a v with
  | zero => simp [Memory.readLE, Nat.mod_one]
  | succ n ih =>
    show Memory.readLE ((m.write a _).writeLE (a + 1) n _) a (n + 1) = _
    rw [Memory.readLE, ih, Memory.read_writeLE_outside _ (by omega), Memory.read_write, if_pos rfl]
    rw [show (256 : Nat) ^ (n + 1) = 256 * 256 ^ n from Nat.pow_succ', Nat.mod_mul]
    rfl

/-- A word's value is below 256^n. -/
theorem Memory.readLE_lt {m : Memory} {a n v : Nat} (h : m.readLE a n = some v) : v < 256 ^ n := by
  induction n generalizing a v with
  | zero => simp [Memory.readLE] at h; omega
  | succ n ih =>
    rw [Memory.readLE] at h
    split at h
    · next b u _ hu =>
      simp only [Option.some.injEq] at h
      have := ih hu
      have := b.isLt
      rw [Nat.pow_succ']
      omega
    · cases h

/-! ### The program -/

@[simp] theorem Program.read_load (p : Program) (a b : WordAddr) (w : InstrWord) :
    (p.load a w).read b = if b = a then some w else p.read b := by
  show lookup (update p a.toNat w) b.toNat = _
  rw [lookup_update]
  simp only [BitVec.toNat_inj]
  rfl

theorem Program.rising_load {p : Program} (h : Rising p) (a : WordAddr) (w : InstrWord) : Rising (p.load a w) :=
  rising_update h _ _

end Sys2Proof.Machine
end

