-- ==== Sys2Proof/Laws/State.lean ====
section
/-! SUPPORT. One lemma per field per update of the state, and what the register accessors do. -/

namespace Sys2Proof.Machine

variable (s : State)

/-! ### setReg -/

@[simp] theorem setReg_cfg (r : RegNum) (v : BitVec s.cfg.xlen) : (s.setReg r v).cfg = s.cfg := rfl
@[simp] theorem setReg_pc (r : RegNum) (v : BitVec s.cfg.xlen) : (s.setReg r v).pc = s.pc := rfl
@[simp] theorem setReg_dmem (r : RegNum) (v : BitVec s.cfg.xlen) : (s.setReg r v).dmem = s.dmem := rfl
@[simp] theorem setReg_imem (r : RegNum) (v : BitVec s.cfg.xlen) : (s.setReg r v).imem = s.imem := rfl

/-! ### setPc and advance -/

@[simp] theorem setPc_cfg (t : WordAddr) : (s.setPc t).cfg = s.cfg := rfl
@[simp] theorem setPc_regs (t : WordAddr) : (s.setPc t).regs = s.regs := rfl
@[simp] theorem setPc_pc (t : WordAddr) : (s.setPc t).pc = t := rfl
@[simp] theorem setPc_dmem (t : WordAddr) : (s.setPc t).dmem = s.dmem := rfl
@[simp] theorem setPc_imem (t : WordAddr) : (s.setPc t).imem = s.imem := rfl
@[simp] theorem advance_cfg : s.advance.cfg = s.cfg := rfl
@[simp] theorem advance_pc : s.advance.pc = s.pc + 1 := rfl
@[simp] theorem advance_dmem : s.advance.dmem = s.dmem := rfl
@[simp] theorem advance_imem : s.advance.imem = s.imem := rfl

/-! ### setDMem -/

@[simp] theorem setDMem_cfg (m : Memory) : (s.setDMem m).cfg = s.cfg := rfl
@[simp] theorem setDMem_regs (m : Memory) : (s.setDMem m).regs = s.regs := rfl
@[simp] theorem setDMem_pc (m : Memory) : (s.setDMem m).pc = s.pc := rfl
@[simp] theorem setDMem_dmem (m : Memory) : (s.setDMem m).dmem = m := rfl
@[simp] theorem setDMem_imem (m : Memory) : (s.setDMem m).imem = s.imem := rfl

/-! ### writeBack -/

@[simp] theorem writeBack_cfg (r : RegNum) (v : BitVec s.cfg.xlen) : (s.writeBack r v).cfg = s.cfg := rfl
@[simp] theorem writeBack_pc (r : RegNum) (v : BitVec s.cfg.xlen) : (s.writeBack r v).pc = s.pc + 1 := rfl
@[simp] theorem writeBack_dmem (r : RegNum) (v : BitVec s.cfg.xlen) : (s.writeBack r v).dmem = s.dmem := rfl
@[simp] theorem writeBack_imem (r : RegNum) (v : BitVec s.cfg.xlen) : (s.writeBack r v).imem = s.imem := rfl

/-! ### Reading a register after an update -/

/-- A register reads back what was written to it, and every other keeps its value. -/
theorem reg_setReg (r r' : RegNum) (v : BitVec s.cfg.xlen) :
    (s.setReg r v).reg r' = if r' = r then v else s.reg r' := by
  show (s.regs.set r.toNat v r.isLt)[r'.toNat]'(r'.isLt) = _
  rw [Vector.getElem_set]
  simp only [eq_comm (a := r.toNat), BitVec.toNat_inj]
  rfl

@[simp] theorem regVal_setReg (r r' : RegNum) (v : BitVec s.cfg.xlen) :
    (s.setReg r v).regVal r' = if r' = r then v.toNat else s.regVal r' := by
  show ((s.setReg r v).reg r').toNat = _
  rw [reg_setReg]
  split <;> rfl

@[simp] theorem regVal_setPc (t : WordAddr) (r : RegNum) : (s.setPc t).regVal r = s.regVal r := rfl
@[simp] theorem regVal_advance (r : RegNum) : s.advance.regVal r = s.regVal r := rfl
@[simp] theorem regVal_setDMem (m : Memory) (r : RegNum) : (s.setDMem m).regVal r = s.regVal r := rfl

@[simp] theorem regVal_writeBack (r r' : RegNum) (v : BitVec s.cfg.xlen) :
    (s.writeBack r v).regVal r' = if r' = r then v.toNat else s.regVal r' :=
  regVal_setReg s r r' v

/-- A register's value is below 2^XLEN. -/
theorem regVal_lt (r : RegNum) : s.regVal r < 2 ^ s.cfg.xlen := (s.reg r).isLt

end Sys2Proof.Machine
end

