-- ==== Sys2Proof/Laws/Ops.lean ====
section
/-! SUPPORT. For each shared operation, once, everything it can do when it answers a next state. -/

namespace Sys2Proof.Machine

/-! ### The register check -/

theorem unlessR15_of_not_mem {used : List RegNum} {k : Result} (h : 15#4 ∉ used) : unlessR15 used k = k := if_neg h

theorem unlessR15_of_mem {used : List RegNum} {k : Result} (h : 15#4 ∈ used) : unlessR15 used k = .refused .r15Operand :=
  if_pos h

theorem unlessR15_eq_next {used : List RegNum} {k : Result} {t : State} :
    unlessR15 used k = .next t ↔ 15#4 ∉ used ∧ k = .next t := by
  unfold unlessR15
  split <;> simp_all

theorem unlessR15_eq_fault {used : List RegNum} {k : Result} {e : Fault} :
    unlessR15 used k = .fault e ↔ 15#4 ∉ used ∧ k = .fault e := by
  unfold unlessR15
  split <;> simp_all

theorem unlessR15_eq_refused {used : List RegNum} {k : Result} {e : Refusal} :
    unlessR15 used k = .refused e ↔ 15#4 ∈ used ∧ e = .r15Operand ∨ 15#4 ∉ used ∧ k = .refused e := by
  unfold unlessR15
  split <;> simp_all [eq_comm]

/-! ### Loads and stores -/

theorem accessRefusal_eq_none {s : State} {ea : BitVec s.cfg.xlen} : s.accessRefusal ea = none ↔ s.accessOk ea.toNat := by
  unfold State.accessRefusal State.accessOk
  split
  · simp_all
  · split <;> simp_all

theorem accessRefusal_of_misaligned {s : State} {ea : BitVec s.cfg.xlen} (h : ea.toNat % s.cfg.wordBytes ≠ 0) :
    s.accessRefusal ea = some (.misalignedAccess ea.toNat) := if_pos h

theorem accessRefusal_of_outside {s : State} {ea : BitVec s.cfg.xlen} (h : ea.toNat % s.cfg.wordBytes = 0)
    (h' : s.cfg.dmemBytes < ea.toNat + s.cfg.wordBytes) : s.accessRefusal ea = some (.accessOutsideMemory ea.toNat) := by
  unfold State.accessRefusal
  rw [if_neg (not_not.mpr h), if_pos h']

theorem loadWord_eq_next {s t : State} {ea : BitVec s.cfg.xlen} {k : BitVec s.cfg.xlen → Result} :
    s.loadWord ea k = .next t ↔
      s.accessOk ea.toNat ∧
        ∃ v, s.dmem.readLE ea.toNat s.cfg.wordBytes = some v ∧ k (BitVec.ofNat s.cfg.xlen v) = .next t := by
  rw [← accessRefusal_eq_none]
  unfold State.loadWord
  split
  · simp_all
  · split <;> simp_all

theorem storeWord_eq_next {s t : State} {ea v : BitVec s.cfg.xlen} {k : State → Result} :
    s.storeWord ea v k = .next t ↔
      s.accessOk ea.toNat ∧ k (s.setDMem (s.dmem.writeLE ea.toNat s.cfg.wordBytes v.toNat)) = .next t := by
  rw [← accessRefusal_eq_none]
  unfold State.storeWord
  split <;> simp_all

/-! ### The shared shapes of the meanings -/

theorem dpiResult_eq_next {f : DpiFields} {s t : State} {v : BitVec s.cfg.xlen} :
    dpiResult f s v = .next t ↔ 15#4 ∉ [f.rn, f.rd] ∧ t = s.writeBack f.rd v := by
  unfold dpiResult
  rw [unlessR15_eq_next, Host.Outcome.next.injEq, eq_comm (a := t)]

theorem dprResult_eq_next {f : DprFields} {s t : State} {v : BitVec s.cfg.xlen} :
    dprResult f s v = .next t ↔ 15#4 ∉ [f.rn, f.rm, f.rd] ∧ t = s.writeBack f.rd v := by
  unfold dprResult
  rw [unlessR15_eq_next, Host.Outcome.next.injEq, eq_comm (a := t)]

theorem rrrResult_eq_next {f : RrrFields} {s t : State} {v : BitVec s.cfg.xlen} :
    rrrResult f s v = .next t ↔ 15#4 ∉ [f.rn, f.rm, f.rd] ∧ t = s.writeBack f.rd v := by
  unfold rrrResult
  rw [unlessR15_eq_next, Host.Outcome.next.injEq, eq_comm (a := t)]

theorem jumpToRegister_eq_next {rm : RegNum} {s t : State} :
    jumpToRegister rm s = .next t ↔ 15#4 ∉ [rm] ∧ t = s.setPc (s.registerTarget rm) := by
  unfold jumpToRegister
  rw [unlessR15_eq_next, Host.Outcome.next.injEq, eq_comm (a := t)]

theorem branchOn_eq_next {taken : Bool} {f : Cb16Fields} {s t : State} :
    branchOn taken f s = .next t ↔
      15#4 ∉ [f.rn, f.rm] ∧ t = if taken then s.setPc (branchTarget16 s.pc f.off16) else s.advance := by
  unfold branchOn
  rw [unlessR15_eq_next, Host.Outcome.next.injEq, eq_comm (a := t)]

/-! ### The step -/

theorem fetch_eq_next {s t : State} {k : InstrWord → Result} :
    s.fetch k = .next t ↔ ∃ w, s.imem.read s.pc = some w ∧ k w = .next t := by
  unfold State.fetch
  split <;> simp_all

theorem decodeWord_eq_next {s t : State} {w : InstrWord} {k : Instr → Result} :
    s.decodeWord w k = .next t ↔ ∃ i, decode s.cfg.jBeqOverlap w = .ok i ∧ k i = .next t := by
  unfold State.decodeWord
  split <;> simp_all

/-- A step that completes fetched a word, decoded it and executed the instruction. -/
theorem step_eq_next {s t : State} :
    step s = .next t ↔
      ∃ w i, s.imem.read s.pc = some w ∧ decode s.cfg.jBeqOverlap w = .ok i ∧ exec i s = .next t := by
  unfold step
  simp only [fetch_eq_next, decodeWord_eq_next]
  exact ⟨fun ⟨w, hw, i, hi, h⟩ => ⟨w, i, hw, hi, h⟩, fun ⟨w, i, hw, hi, h⟩ => ⟨w, hw, i, hi, h⟩⟩

/-! ### Frames -/

theorem onlyRegsChange_writeBack (s : State) (rd : RegNum) (v : BitVec s.cfg.xlen) :
    OnlyRegsChange [rd] s (s.writeBack rd v) :=
  ⟨rfl, rfl, fun r hr => by rw [regVal_writeBack, if_neg (by simpa using hr)], fun _ => rfl⟩

theorem onlyRegsChange_setPc (s : State) (t : WordAddr) : OnlyRegsChange [] s (s.setPc t) :=
  ⟨rfl, rfl, fun _ _ => rfl, fun _ => rfl⟩

/-- A step that completes ran the instruction at the pc. -/
theorem step_eq_next_iff_instrAtPc {s t : State} : step s = .next t ↔ ∃ i, s.instrAtPc = some i ∧ exec i s = .next t := by
  unfold State.instrAtPc step State.fetch State.decodeWord
  split
  · next w hw =>
    simp only [hw]
    split <;> simp_all
  · next hw => simp [hw]

/-! ### Runs -/

@[simp] theorem State.afterSteps_zero (s : State) : s.afterSteps 0 = some s := rfl

theorem State.afterSteps_succ_eq_some {s u : State} {n : Nat} :
    s.afterSteps (n + 1) = some u ↔ ∃ t, step s = .next t ∧ t.afterSteps n = some u := by
  rw [State.afterSteps]
  split <;> simp_all

end Sys2Proof.Machine
end

