-- ==== Sys2Proof/Laws/PerInstr.lean ====
section
/-! SUPPORT. Statements made per instruction, one lemma per constructor. -/

namespace Sys2Proof.Laws.MatchesTable

/-- An instruction's word is one of its row of spec/opcode_table.json: under the row's mask it has the row's value. -/
def Statement (i : Instr) : Prop := encode i &&& i.tableRow.mask = i.tableRow.value

/-! ### A mask over a concatenation, field by field -/

theorem mask_append {n m : Nat} {x u x' : BitVec n} {y v y' : BitVec m} (hx : x &&& u = x') (hy : y &&& v = y') :
    (x ++ y) &&& (u ++ v) = x' ++ y' := by
  rw [BitVec.and_append, hx, hy]

/-- A field the mask drops. -/
theorem drop {n : Nat} (x : BitVec n) : x &&& 0#n = 0#n := BitVec.and_zero

/-- A field the mask keeps. -/
theorem keep {n : Nat} (x : BitVec n) : x &&& BitVec.allOnes n = x := BitVec.and_allOnes

/-! ### The formats -/

theorem dpi (op : BitVec 4) (f : DpiFields) :
    encodeDpi op f &&& 0xFFE00000#32 = 0b1110#4 ++ 0b00#2 ++ 1#1 ++ op ++ 0#1 ++ 0#4 ++ 0#4 ++ 0#4 ++ 0#8 := by
  rw [show (0xFFE00000#32) = BitVec.allOnes 4 ++ BitVec.allOnes 2 ++ BitVec.allOnes 1 ++ BitVec.allOnes 4 ++ 0#1 ++ 0#4 ++ 0#4
    ++ 0#4 ++ 0#8 from rfl]
  exact mask_append (mask_append (mask_append (mask_append (mask_append (mask_append (mask_append (mask_append
    (keep _) (keep _)) (keep _)) (keep _)) (drop _)) (drop _)) (drop _)) (drop _)) (drop _)

theorem dpr (op : BitVec 4) (f : DprFields) :
    encodeDpr op f &&& 0xFFE00000#32 = 0b1110#4 ++ 0b00#2 ++ 0#1 ++ op ++ 0#1 ++ 0#4 ++ 0#4 ++ 0#8 ++ 0#4 := by
  rw [show (0xFFE00000#32) = BitVec.allOnes 4 ++ BitVec.allOnes 2 ++ BitVec.allOnes 1 ++ BitVec.allOnes 4 ++ 0#1 ++ 0#4 ++ 0#4
    ++ 0#8 ++ 0#4 from rfl]
  exact mask_append (mask_append (mask_append (mask_append (mask_append (mask_append (mask_append (mask_append
    (keep _) (keep _)) (keep _)) (keep _)) (drop _)) (drop _)) (drop _)) (drop _)) (drop _)

theorem rrr (op : BitVec 4) (f : RrrFields) :
    encodeRrr op f &&& 0xFFF00FF0#32 = 0b1110#4 ++ 0b000#3 ++ op ++ 0#1 ++ 0#4 ++ 0#4 ++ 0x00#8 ++ 0#4 := by
  rw [show (0xFFF00FF0#32) = BitVec.allOnes 4 ++ BitVec.allOnes 3 ++ BitVec.allOnes 4 ++ BitVec.allOnes 1 ++ 0#4 ++ 0#4
    ++ BitVec.allOnes 8 ++ 0#4 from rfl]
  exact mask_append (mask_append (mask_append (mask_append (mask_append (mask_append (mask_append
    (keep _) (keep _)) (keep _)) (keep _)) (drop _)) (drop _)) (keep _)) (drop _)

theorem lsi (l : BitVec 1) (f : LsiFields) :
    encodeLsi l f &&& 0xFF700000#32 =
      0b1110#4 ++ 0b01#2 ++ 0#1 ++ 1#1 ++ 0#1 ++ 0#1 ++ 0#1 ++ l ++ 0#4 ++ 0#4 ++ 0#12 := by
  rw [show (0xFF700000#32) = BitVec.allOnes 4 ++ BitVec.allOnes 2 ++ BitVec.allOnes 1 ++ BitVec.allOnes 1 ++ 0#1
    ++ BitVec.allOnes 1 ++ BitVec.allOnes 1 ++ BitVec.allOnes 1 ++ 0#4 ++ 0#4 ++ 0#12 from rfl]
  exact mask_append (mask_append (mask_append (mask_append (mask_append (mask_append (mask_append (mask_append (mask_append
    (mask_append (keep _) (keep _)) (keep _)) (keep _)) (drop _)) (keep _)) (keep _)) (keep _)) (drop _)) (drop _)) (drop _)

theorem cb16 (k : BitVec 4) (f : Cb16Fields) :
    encodeCb16 k f &&& 0xFF000000#32 = 0b1110#4 ++ k ++ 0#4 ++ 0#4 ++ 0#16 := by
  rw [show (0xFF000000#32) = BitVec.allOnes 4 ++ BitVec.allOnes 4 ++ 0#4 ++ 0#4 ++ 0#16 from rfl]
  exact mask_append (mask_append (mask_append (mask_append (keep _) (keep _)) (drop _)) (drop _)) (drop _)

theorem bxr (rm : RegNum) : (0xE#4 ++ 0x12FFF1#24 ++ rm) &&& 0xFFFFFFF0#32 = 0xE#4 ++ 0x12FFF1#24 ++ 0#4 := by
  rw [show (0xFFFFFFF0#32) = BitVec.allOnes 4 ++ BitVec.allOnes 24 ++ 0#4 from rfl]
  exact mask_append (mask_append (keep _) (keep _)) (drop _)

theorem br24 (k : BitVec 4) (off24 : BitVec 24) :
    (0b1110#4 ++ k ++ off24) &&& 0xFF000000#32 = 0b1110#4 ++ k ++ 0#24 := by
  rw [show (0xFF000000#32) = BitVec.allOnes 4 ++ BitVec.allOnes 4 ++ 0#24 from rfl]
  exact mask_append (mask_append (keep _) (keep _)) (drop _)

/-! ### The constructors -/

theorem nop : Statement .nop := rfl
theorem bx (rm : RegNum) : Statement (.bx rm) := bxr rm
theorem jr (rm : RegNum) : Statement (.jr rm) := bxr rm
theorem addImm (f : DpiFields) : Statement (.addImm f) := dpi _ f
theorem addReg (f : DprFields) : Statement (.addReg f) := dpr _ f
theorem subImm (f : DpiFields) : Statement (.subImm f) := dpi _ f
theorem subReg (f : DprFields) : Statement (.subReg f) := dpr _ f
theorem andImm (f : DpiFields) : Statement (.andImm f) := dpi _ f
theorem andReg (f : DprFields) : Statement (.andReg f) := dpr _ f
theorem orrImm (f : DpiFields) : Statement (.orrImm f) := dpi _ f
theorem orrReg (f : DprFields) : Statement (.orrReg f) := dpr _ f

theorem movImm (f : MovImmFields) : Statement (.movImm f) := by
  unfold Statement
  show (0b1110#4 ++ 0b00#2 ++ 1#1 ++ 0b1101#4 ++ f.s ++ 0#4 ++ f.rd ++ f.rot ++ f.imm8) &&& 0xFFEF0000#32 =
    0b1110#4 ++ 0b00#2 ++ 1#1 ++ 0b1101#4 ++ 0#1 ++ 0#4 ++ 0#4 ++ 0#4 ++ 0#8
  rw [show (0xFFEF0000#32) = BitVec.allOnes 4 ++ BitVec.allOnes 2 ++ BitVec.allOnes 1 ++ BitVec.allOnes 4 ++ 0#1
    ++ BitVec.allOnes 4 ++ 0#4 ++ 0#4 ++ 0#8 from rfl]
  exact mask_append (mask_append (mask_append (mask_append (mask_append (mask_append (mask_append (mask_append
    (keep _) (keep _)) (keep _)) (keep _)) (drop _)) (keep _)) (drop _)) (drop _)) (drop _)

theorem movReg (f : MovRegFields) : Statement (.movReg f) := by
  unfold Statement
  show (0b1110#4 ++ 0b00#2 ++ 0#1 ++ 0b1101#4 ++ f.s ++ 0#4 ++ f.rd ++ f.ignored ++ f.rm) &&& 0xFFEF0000#32 =
    0b1110#4 ++ 0b00#2 ++ 0#1 ++ 0b1101#4 ++ 0#1 ++ 0#4 ++ 0#4 ++ 0#8 ++ 0#4
  rw [show (0xFFEF0000#32) = BitVec.allOnes 4 ++ BitVec.allOnes 2 ++ BitVec.allOnes 1 ++ BitVec.allOnes 4 ++ 0#1
    ++ BitVec.allOnes 4 ++ 0#4 ++ 0#8 ++ 0#4 from rfl]
  exact mask_append (mask_append (mask_append (mask_append (mask_append (mask_append (mask_append (mask_append
    (keep _) (keep _)) (keep _)) (keep _)) (drop _)) (keep _)) (drop _)) (drop _)) (drop _)

theorem eorImm (f : DpiFields) : Statement (.eorImm f) := dpi _ f
theorem eorReg (f : DprFields) : Statement (.eorReg f) := dpr _ f
theorem cmpImm (f : DpiFields) : Statement (.cmpImm f) := dpi _ f
theorem cmpReg (f : DprFields) : Statement (.cmpReg f) := dpr _ f
theorem tstImm (f : DpiFields) : Statement (.tstImm f) := dpi _ f
theorem tstReg (f : DprFields) : Statement (.tstReg f) := dpr _ f
theorem sll (f : RrrFields) : Statement (.sll f) := rrr _ f
theorem srl (f : RrrFields) : Statement (.srl f) := rrr _ f
theorem slt (f : RrrFields) : Statement (.slt f) := rrr _ f
theorem ldr (f : LsiFields) : Statement (.ldr f) := lsi _ f
theorem str (f : LsiFields) : Statement (.str f) := lsi _ f
theorem b (off24 : BitVec 24) : Statement (.b off24) := br24 _ off24
theorem bl (off24 : BitVec 24) : Statement (.bl off24) := br24 _ off24
theorem bne (f : Cb16Fields) : Statement (.bne f) := cb16 _ f
theorem beq (f : Cb16Fields) : Statement (.beq f) := cb16 _ f

theorem j (target9 : BitVec 9) : Statement (.j target9) := by
  unfold Statement
  show (0b111010#6 ++ 0#17 ++ target9) &&& 0xFFFFFE00#32 = 0b111010#6 ++ 0#17 ++ 0#9
  rw [show (0xFFFFFE00#32) = BitVec.allOnes 6 ++ BitVec.allOnes 17 ++ 0#9 from rfl]
  exact mask_append (mask_append (keep _) (keep _)) (drop _)

end Sys2Proof.Laws.MatchesTable
end

