-- ==== Sys2Proof/Tests/Slice0.lean ====
section
/-! SUPPORT. Tests of the model against 95_test_vectors.md, decodings of words written out from 30_encoding.md, ill-formed terms, and a
witness for each obligation that has hypotheses. "2.1 #3" names vector 3 of section 2.1. -/

namespace Sys2Proof.Tests

open Sys2Proof.Machine

/-! ### Helpers -/

/-- The configuration of 95_test_vectors.md. -/
def x32 : Config := ⟨32, 1024, 0, .refuse, .r14Next⟩
/-- The same at XLEN = 64. -/
def x64 : Config := ⟨64, 1024, 0, .refuse, .r14Next⟩

/-- One word at word address `pc`, about to be fetched. -/
def start (c : Config) (pc : Nat) (w : InstrWord) (regs : List (Nat × Nat)) (mem : Memory) : State :=
  State.launch ⟨c.xlen, c.dmemBytes, BitVec.ofNat 9 pc, c.jBeqOverlap, c.blLink⟩ [(pc, w)] mem regs

/-- The pc and the watched registers after a step that completes. -/
def after (r : Result) (watch : List RegNum) : Option (Nat × List Nat) :=
  match r with
  | .next t => some (t.pc.toNat, watch.map t.regVal)
  | _ => none

/-- The bytes of data memory after a step that completes. -/
def memAfter (r : Result) : Option Memory :=
  match r with
  | .next t => some t.dmem
  | _ => none

/-- The reason of a refused step. -/
def refusal (r : Result) : Option Refusal :=
  match r with
  | .refused e => some e
  | _ => none

/-- The reason of a step that faults. -/
def fault (r : Result) : Option Fault :=
  match r with
  | .fault e => some e
  | _ => none

/-- [0x108] = 0xCAFEF00D (section 2.3). -/
def cafe : Memory := [(0x108, 0x0D), (0x109, 0xF0), (0x10A, 0xFE), (0x10B, 0xCA)]

/-! ### WellFormed: a term each check refuses -/

/-- R77: the register form of AND with every field zero is the NOP word. -/
theorem test_ill_formed_and : (Instr.andReg ⟨0, 0, 0, 0, 0⟩).wellFormed .refuse = false := by decide
/-- R79: BEQ R0,R0,+5 under refuse and under j. -/
theorem test_ill_formed_beq :
    (Instr.beq ⟨0, 0, 5⟩).wellFormed .refuse = false ∧ (Instr.beq ⟨0, 0, 5⟩).wellFormed .j = false := by decide
/-- R79: J under refuse and under beq. -/
theorem test_ill_formed_j : (Instr.j 5).wellFormed .refuse = false ∧ (Instr.j 5).wellFormed .beq = false := by decide

/-! ### Decode: for every constructor, a word written out from its format -/

/-- R77. -/
theorem test_decode_nop : decode .refuse 0b11100000000000000000000000000000 = .ok .nop := rfl
/-- R73: 0xE, 0x12FFF1, Rm = 14. -/
theorem test_decode_bx : decode .refuse 0b11100001001011111111111100011110 = .ok (.bx 14) := rfl
/-- R155: JR R3 is BX R3. -/
theorem test_decode_jr : decode .refuse 0b11100001001011111111111100010011 = .ok (Instr.jr 3).canonical := rfl
/-- R64: 1110 00 1 0100 S=1 Rn=2 Rd=1 rot=12 imm8=5. -/
theorem test_decode_add_imm : decode .refuse 0b11100010100100100001110000000101 = .ok (.addImm ⟨1, 2, 1, 12, 5⟩) := rfl
/-- R65: 1110 00 0 0100 S=0 Rn=2 Rd=1 ignored=0xFF Rm=3. -/
theorem test_decode_add_reg : decode .refuse 0b11100000100000100001111111110011 = .ok (.addReg ⟨0, 2, 1, 0xFF, 3⟩) := rfl
/-- R64: opcode 0010, Rn=2 Rd=1 imm8=1. -/
theorem test_decode_sub_imm : decode .refuse 0b11100010010000100001000000000001 = .ok (.subImm ⟨0, 2, 1, 0, 1⟩) := rfl
/-- R65: opcode 0010, Rn=5 Rd=4 Rm=6. -/
theorem test_decode_sub_reg : decode .refuse 0b11100000010001010100000000000110 = .ok (.subReg ⟨0, 5, 4, 0, 6⟩) := rfl
/-- R64: opcode 0000, Rn=2 Rd=1 imm8=15. -/
theorem test_decode_and_imm : decode .refuse 0b11100010000000100001000000001111 = .ok (.andImm ⟨0, 2, 1, 0, 15⟩) := rfl
/-- R75 step 2: one bit away from the NOP word. -/
theorem test_decode_and_reg : decode .refuse 0b11100000000000000000000000000001 = .ok (.andReg ⟨0, 0, 0, 0, 1⟩) := rfl
/-- R64: opcode 1100, Rn=2 Rd=1 imm8=128. -/
theorem test_decode_orr_imm : decode .refuse 0b11100011100000100001000010000000 = .ok (.orrImm ⟨0, 2, 1, 0, 128⟩) := rfl
/-- R65: opcode 1100, Rn=8 Rd=7 Rm=9. -/
theorem test_decode_orr_reg : decode .refuse 0b11100001100010000111000000001001 = .ok (.orrReg ⟨0, 8, 7, 0, 9⟩) := rfl
/-- R84: opcode 1101, Rn=0 Rd=1 rot=12 imm8=255. -/
theorem test_decode_mov_imm : decode .refuse 0b11100011101000000001110011111111 = .ok (.movImm ⟨0, 1, 12, 255⟩) := rfl
/-- R84: opcode 1101, S=1 Rn=0 Rd=2 Rm=3. -/
theorem test_decode_mov_reg : decode .refuse 0b11100001101100000010000000000011 = .ok (.movReg ⟨1, 2, 0, 3⟩) := rfl
/-- R64: opcode 0001, Rn=1 Rd=1 imm8=255. -/
theorem test_decode_eor_imm : decode .refuse 0b11100010001000010001000011111111 = .ok (.eorImm ⟨0, 1, 1, 0, 255⟩) := rfl
/-- R65: opcode 0001, Rn=2 Rd=1 Rm=2. -/
theorem test_decode_eor_reg : decode .refuse 0b11100000001000100001000000000010 = .ok (.eorReg ⟨0, 2, 1, 0, 2⟩) := rfl
/-- R64: opcode 1010, S=1 Rn=1 imm8=3. -/
theorem test_decode_cmp_imm : decode .refuse 0b11100011010100010000000000000011 = .ok (.cmpImm ⟨1, 1, 0, 0, 3⟩) := rfl
/-- R65: opcode 1010, Rn=1 Rm=2. -/
theorem test_decode_cmp_reg : decode .refuse 0b11100001010000010000000000000010 = .ok (.cmpReg ⟨0, 1, 0, 0, 2⟩) := rfl
/-- R64: opcode 1000, Rn=1 imm8=1. -/
theorem test_decode_tst_imm : decode .refuse 0b11100011000000010000000000000001 = .ok (.tstImm ⟨0, 1, 0, 0, 1⟩) := rfl
/-- R65: opcode 1000, Rn=1 Rd=5 Rm=2. -/
theorem test_decode_tst_reg : decode .refuse 0b11100001000000010101000000000010 = .ok (.tstReg ⟨0, 1, 5, 0, 2⟩) := rfl
/-- Log entry 32: the words ARM gives to MRS R0,CPSR and MRS R0,SPSR are TST and CMP with Rn = 15 by the map of R78; the words it gives to
MSR CPSR_fc,R0 and MSR SPSR_fc,R0 are reserved (R80), and SLT with Rd = 15, which R24 refuses. -/
theorem test_decode_status_access :
    decode .refuse 0xE10F0000 = .ok (.tstReg ⟨0, 15, 0, 0, 0⟩) ∧ decode .refuse 0xE14F0000 = .ok (.cmpReg ⟨0, 15, 0, 0, 0⟩) ∧
    decode .refuse 0xE129F000 = .error .reservedEncoding ∧ decode .refuse 0xE169F000 = .ok (.slt ⟨9, 15, 0⟩) := ⟨rfl, rfl, rfl, rfl⟩
/-- R70: 1110 000 0110 0 Rn=2 Rd=1 00000000 Rm=3. -/
theorem test_decode_sll : decode .refuse 0b11100000110000100001000000000011 = .ok (.sll ⟨2, 1, 3⟩) := rfl
/-- R70: opcode 0111. -/
theorem test_decode_srl : decode .refuse 0b11100000111000100001000000000011 = .ok (.srl ⟨2, 1, 3⟩) := rfl
/-- R70: opcode 1011. -/
theorem test_decode_slt : decode .refuse 0b11100001011000100001000000000011 = .ok (.slt ⟨2, 1, 3⟩) := rfl
/-- R71: 1110 01 0 P=1 U=1 B=0 W=0 L=1 Rn=2 Rd=1 imm12=8. -/
theorem test_decode_ldr : decode .refuse 0b11100101100100100001000000001000 = .ok (.ldr ⟨1, 2, 1, 8⟩) := rfl
/-- R71: 1110 01 0 P=1 U=0 B=0 W=0 L=0 Rn=4 Rd=3 imm12=4095. -/
theorem test_decode_str : decode .refuse 0b11100101000001000011111111111111 = .ok (.str ⟨0, 4, 3, 4095⟩) := rfl
/-- R72: 1110 1010 off24 = -3. -/
theorem test_decode_b : decode .refuse 0b11101010111111111111111111111101 = .ok (.b 0xFFFFFD) := rfl
/-- R72: 1110 1011 off24 = 88. -/
theorem test_decode_bl : decode .refuse 0b11101011000000000000000001011000 = .ok (.bl 88) := rfl
/-- R74: 1110 1001 Rn=1 Rm=2 off16 = -8. -/
theorem test_decode_bne : decode .refuse 0b11101001000100101111111111111000 = .ok (.bne ⟨1, 2, 0xFFF8⟩) := rfl
/-- R74: 1110 1000 Rn=1 Rm=2 off16 = 3. -/
theorem test_decode_beq : decode .refuse 0b11101000000100100000000000000011 = .ok (.beq ⟨1, 2, 3⟩) := rfl
/-- R76, R79: 111010, seventeen zeros, target9 = 5, under each setting. -/
theorem test_decode_j :
    decode .j 0b11101000000000000000000000000101 = .ok (.j 5) ∧
    decode .beq 0b11101000000000000000000000000101 = .ok (.beq ⟨0, 0, 5⟩) ∧
    decode .refuse 0b11101000000000000000000000000101 = .error .ambiguousJOrBeq := ⟨rfl, rfl, rfl⟩
/-- R91: the label of a branch, two words back from 5: off16 = -4 (95_test_vectors.md P1). -/
theorem test_label : labelOff16 5 3 = 0xFFFC ∧ labelOff24 2 5 = 1 := by decide
/-- R89. -/
theorem test_asm : (Instr.str ⟨0, 4, 3, 4095⟩).asm = "STR R3, [R4, #-4095]" := by decide
/-- The word of a row, as the table numbers it. -/
theorem test_decode_table_word : decodeTableWord 32 0xE5900000 = some (.ldr ⟨1, 0, 0, 0⟩) := by decide

/-! ### Data processing (section 2.1) -/

/-- 2.1 #4: rot is ignored. -/
theorem test_add_imm : after (step (start x32 0 0xE2821CFF [(2, 1)] [])) [1] = some (1, [0x100]) := by decide
/-- 2.1 #2: wraps. -/
theorem test_add_reg : after (step (start x32 0 0xE0813002 [(1, 0xFFFFFFFF), (2, 1)] [])) [3] = some (1, [0]) := by decide
/-- 2.1 #2 at XLEN = 64: does not wrap. -/
theorem test_add_reg_x64 :
    after (step (start x64 0 0xE0813002 [(1, 0xFFFFFFFF), (2, 1)] [])) [3] = some (1, [0x100000000]) := by decide
/-- 2.1 #7. -/
theorem test_sub_imm : after (step (start x32 0 0xE2421001 [(2, 0)] [])) [1] = some (1, [0xFFFFFFFF]) := by decide
/-- 2.1 #8: Rn minus Operand2. -/
theorem test_sub_reg : after (step (start x32 0 0xE0454006 [(5, 0xA), (6, 3)] [])) [4] = some (1, [7]) := by decide
/-- 2.1 #10. -/
theorem test_and_imm : after (step (start x32 0 0xE202100F [(2, 0x1234)] [])) [1] = some (1, [4]) := by decide
/-- 2.1 #11. -/
theorem test_and_reg :
    after (step (start x32 0 0xE0021003 [(2, 0xFF00FF00), (3, 0x0FF00FF0)] [])) [1] = some (1, [0x0F000F00]) := by decide
/-- 2.1 #29: S = 1 keeps the word from being NOP, and is ignored. -/
theorem test_and_reg_s : after (step (start x32 0 0xE0100000 [(0, 9)] [])) [0] = some (1, [9]) := by decide
/-- 2.1 #12. -/
theorem test_orr_imm : after (step (start x32 0 0xE3821080 [(2, 1)] [])) [1] = some (1, [0x81]) := by decide
/-- 2.1 #13. -/
theorem test_orr_reg : after (step (start x32 0 0xE1887009 [(8, 0xF0), (9, 0x0F)] [])) [7] = some (1, [0xFF]) := by decide
/-- 2.1 #14. -/
theorem test_eor_imm : after (step (start x32 0 0xE22110FF [(1, 0x0F)] [])) [1] = some (1, [0xF0]) := by decide
/-- 2.1 #15. -/
theorem test_eor_reg : after (step (start x32 0 0xE0221002 [(2, 0x1234)] [])) [1] = some (1, [0]) := by decide
/-- 2.1 #17: an ARM would load 0xFF00. -/
theorem test_mov_imm : after (step (start x32 0 0xE3A01CFF [(0, 7)] [])) [1] = some (1, [0xFF]) := by decide
/-- 2.1 #18. -/
theorem test_mov_reg : after (step (start x32 0 0xE1A02003 [(3, 0xDEADBEEF)] [])) [2] = some (1, [0xDEADBEEF]) := by decide
/-- 2.1 #22. -/
theorem test_cmp_imm : after (step (start x32 0 0xE3510003 [(1, 3)] [])) [0, 1] = some (1, [0, 3]) := by decide
/-- 2.1 #24: the fields are unused, 1111 among them. -/
theorem test_cmp_reg : after (step (start x32 0 0xE14F000F [] [])) [] = some (1, []) := by decide
/-- 2.1 #25. -/
theorem test_tst_imm : after (step (start x32 0 0xE3010001 [(1, 3)] [])) [0, 1] = some (1, [0, 3]) := by decide
/-- 2.1 #26: TST is not ADD. -/
theorem test_tst_reg : after (step (start x32 0 0xE1015002 [(1, 1), (2, 1), (5, 9)] [])) [5] = some (1, [9]) := by decide
/-- 2.1 #27, at the last word: the pc wraps (R28). -/
theorem test_nop : after (step (start x32 511 0xE0000000 [(0, 7)] [])) [0] = some (0, [7]) := by decide
/-- 2.1 #30, #31. -/
theorem test_r15 :
    refusal (step (start x32 0 0xE281F000 [(1, 1)] [])) = some .r15Operand ∧
    refusal (step (start x32 0 0xE28F1000 [] [])) = some .r15Operand := by decide
/-- 2.1 #20, #33, #34: words without a meaning. -/
theorem test_undecodable :
    refusal (step (start x32 0 0xE3A21001 [] [])) = some (.undecodable .reservedEncoding) ∧
    refusal (step (start x32 0 0xE3E01000 [] [])) = some (.undecodable .reservedEncoding) ∧
    refusal (step (start x32 0 0x02821005 [] [])) = some (.undecodable .condNotAlways) := by decide

/-! ### Shifts and SLT (section 2.2) -/

/-- 2.2 #3: a shift by XLEN gives 0. -/
theorem test_sll : after (step (start x32 0 0xE0C21003 [(2, 3), (3, 0x20)] [])) [1] = some (1, [0]) := by decide
/-- 2.2 #6: all three registers the same. -/
theorem test_sll_same : after (step (start x32 0 0xE0C11001 [(1, 2)] [])) [1] = some (1, [8]) := by decide
/-- 2.2 #13: zeros come in at the top. -/
theorem test_srl : after (step (start x32 0 0xE0E21003 [(2, 0xFFFFFFFF), (3, 4)] [])) [1] = some (1, [0x0FFFFFFF]) := by decide
/-- The amount is modulo 64, not modulo XLEN (R151). -/
theorem test_srl_amount : after (step (start x32 0 0xE0E21003 [(2, 0x1234), (3, 0x43)] [])) [1] = some (1, [0x246]) := by decide
/-- 2.2 #20: exact though the difference overflows. -/
theorem test_slt : after (step (start x32 0 0xE1621003 [(2, 0x80000000), (3, 0x7FFFFFFF)] [])) [1] = some (1, [1]) := by decide
/-- 2.2 #18 at XLEN = 64. -/
theorem test_slt_x64 : after (step (start x64 0 0xE1621003 [(2, 0xFFFFFFFF), (3, 1)] [])) [1] = some (1, [0]) := by decide
/-- 2.2 #9, #10. -/
theorem test_shift_forms :
    refusal (step (start x32 0 0xE0C21013 [] [])) = some (.undecodable .reservedEncoding) ∧
    refusal (step (start x32 0 0xE2C21001 [] [])) = some (.undecodable .shiftByOneNotSpecified) := by decide

/-! ### LDR and STR (section 2.3) -/

/-- 2.3 #3: the base is read before Rd is written. -/
theorem test_ldr : after (step (start x32 0 0xE5911000 [(1, 0x108)] cafe)) [1] = some (1, [0xCAFEF00D]) := by decide
/-- 2.3 #2: U = 0. -/
theorem test_ldr_sub : after (step (start x32 0 0xE5121004 [(2, 0x10C)] cafe)) [1] = some (1, [0xCAFEF00D]) := by decide
/-- 2.3 #5 to #8: where a load stops. -/
theorem test_ldr_stops :
    fault (step (start x32 0 0xE5921000 [(2, 0x10)] cafe)) = some (.unwrittenMemory 0x10) ∧
    refusal (step (start x32 0 0xE5921002 [(2, 0x108)] cafe)) = some (.misalignedAccess 0x10A) ∧
    refusal (step (start x32 0 0xE5121004 [(2, 0)] cafe)) = some (.accessOutsideMemory 0xFFFFFFFC) ∧
    refusal (step (start x32 0 0xE5921000 [(2, 0x400)] cafe)) = some (.accessOutsideMemory 0x400) := by decide
/-- 2.3 #13: bytes 0x108 to 0x10B are AB 00 00 00. -/
theorem test_str :
    memAfter (step (start x32 0 0xE5821008 [(1, 0xAB), (2, 0x100)] cafe)) =
      some [(0x108, 0xAB), (0x109, 0), (0x10A, 0), (0x10B, 0)] := by decide
/-- 2.3 #24: eight bytes at XLEN = 64. -/
theorem test_str_x64 :
    memAfter (step (start x64 0 0xE5821008 [(1, 0xFFFFFFFF00000001), (2, 0x100)] [])) =
      some [(0x108, 1), (0x109, 0), (0x10A, 0), (0x10B, 0), (0x10C, 0xFF), (0x10D, 0xFF), (0x10E, 0xFF), (0x10F, 0xFF)] := by
  decide

/-! ### Branches (sections 2.4 and 2.5) -/

/-- 2.4 #4. -/
theorem test_b : after (step (start x32 20 0xEAFFFFFD [] [])) [] = some (19, []) := by decide
/-- 2.4 #8: off24[8:0] alone matters. -/
theorem test_b_low_bits : after (step (start x32 5 0xEA7FFFFF [] [])) [] = some (6, []) := by decide
/-- 2.4 #9. -/
theorem test_bl : after (step (start x32 10 0xEB000058 [] [])) [14] = some (100, [0xB]) := by decide
/-- 2.4 #10: the link wraps. -/
theorem test_bl_wraps : after (step (start x32 511 0xEB000000 [] [])) [14] = some (1, [0]) := by decide
/-- 2.4 #14: bits above 8 are ignored. -/
theorem test_bx : after (step (start x32 0 0xE12FFF13 [(3, 0x205)] [])) [] = some (5, []) := by decide
/-- 2.4 #19. -/
theorem test_jr : after (exec (.jr 3) (start x32 9 0xE12FFF13 [(3, 0x20)] [])) [] = some (32, []) := by decide
/-- 2.5 #3: the target is absolute. -/
theorem test_j : after (step (start ⟨32, 1024, 0, .j, .r14Next⟩ 100 0xE8000005 [] [])) [] = some (5, []) := by decide
/-- 2.5 #1. -/
theorem test_overlap_refused :
    refusal (step (start x32 0 0xE8000005 [] [])) = some (.undecodable .ambiguousJOrBeq) := by decide
/-- 2.5 #14: taken, and wraps. -/
theorem test_beq : after (step (start x32 508 0xE8120005 [(1, 1), (2, 1)] [])) [] = some (3, []) := by decide
/-- 2.5 #15: all 64 bits are compared. -/
theorem test_beq_x64 : after (step (start x64 4 0xE8120003 [(1, 0x100000005), (2, 5)] [])) [] = some (5, []) := by decide
/-- 2.5 #18: taken backwards. -/
theorem test_bne : after (step (start x32 9 0xE912FFF8 [(1, 1)] [])) [] = some (3, []) := by decide
/-- 2.5 #20: never taken. -/
theorem test_bne_same : after (step (start x32 1 0xE9000004 [(0, 7)] [])) [] = some (2, []) := by decide

/-! ### Witnesses: for each obligation with hypotheses, a state and operands that meet them, each clause at a boundary -/

/-- A state with three registers set, and a word of data memory. -/
def w32 : State := start x32 7 0xEAFFFFFE [(1, 0x108), (2, 0xFFFFFFFF), (3, 32), (14, 0x77)] cafe

/-- The last register an operand may be is R14; R0 is ordinary (R22). -/
theorem witness_AddWritesSumModTwoToXlen :
    w32.cfg.Valid ∧ (⟨0, 14, 0, 15, 255⟩ : DpiFields).rn ≠ 15#4 ∧ (⟨0, 14, 0, 15, 255⟩ : DpiFields).rd ≠ 15#4 ∧
      (⟨1, 0, 14, 255, 2⟩ : DprFields).rn ≠ 15#4 ∧ (⟨1, 0, 14, 255, 2⟩ : DprFields).rm ≠ 15#4 ∧
      (⟨1, 0, 14, 255, 2⟩ : DprFields).rd ≠ 15#4 ∧
      after (exec (.addImm ⟨0, 14, 0, 15, 255⟩) w32) [0] = some (8, [0x176]) ∧
      after (exec (.addReg ⟨1, 0, 14, 255, 2⟩) w32) [14] = some (8, [0xFFFFFFFF]) := by decide

/-- A difference below 0 wraps. -/
theorem witness_SubWritesDifferenceModTwoToXlen :
    w32.cfg.Valid ∧ (0#4 : RegNum) ≠ 15#4 ∧ (2#4 : RegNum) ≠ 15#4 ∧ (14#4 : RegNum) ≠ 15#4 ∧
      after (exec (.subImm ⟨0, 0, 14, 0, 1⟩) w32) [14] = some (8, [0xFFFFFFFF]) ∧
      after (exec (.subReg ⟨0, 0, 14, 0, 2⟩) w32) [14] = some (8, [1]) := by decide

theorem witness_AndWritesConjunction :
    w32.cfg.Valid ∧ (2#4 : RegNum) ≠ 15#4 ∧ (1#4 : RegNum) ≠ 15#4 ∧ (14#4 : RegNum) ≠ 15#4 ∧
      after (exec (.andImm ⟨0, 2, 14, 0, 255⟩) w32) [14] = some (8, [255]) ∧
      after (exec (.andReg ⟨0, 2, 14, 0, 1⟩) w32) [14] = some (8, [0x108]) := by decide

theorem witness_OrrWritesInclusiveOr :
    w32.cfg.Valid ∧ (2#4 : RegNum) ≠ 15#4 ∧ (1#4 : RegNum) ≠ 15#4 ∧ (14#4 : RegNum) ≠ 15#4 ∧
      after (exec (.orrImm ⟨0, 1, 14, 0, 255⟩) w32) [14] = some (8, [0x1FF]) ∧
      after (exec (.orrReg ⟨0, 2, 14, 0, 1⟩) w32) [14] = some (8, [0xFFFFFFFF]) := by decide

theorem witness_EorWritesExclusiveOr :
    w32.cfg.Valid ∧ (2#4 : RegNum) ≠ 15#4 ∧ (1#4 : RegNum) ≠ 15#4 ∧ (14#4 : RegNum) ≠ 15#4 ∧
      after (exec (.eorImm ⟨0, 2, 14, 0, 255⟩) w32) [14] = some (8, [0xFFFFFF00]) ∧
      after (exec (.eorReg ⟨0, 2, 14, 0, 1⟩) w32) [14] = some (8, [0xFFFFFEF7]) := by decide

theorem witness_MovWritesOperand2 :
    w32.cfg.Valid ∧ (2#4 : RegNum) ≠ 15#4 ∧ (14#4 : RegNum) ≠ 15#4 ∧
      after (exec (.movImm ⟨0, 14, 0, 255⟩) w32) [14] = some (8, [255]) ∧
      after (exec (.movReg ⟨0, 14, 0, 2⟩) w32) [14] = some (8, [0xFFFFFFFF]) := by decide

/-- Both values of U, at the largest offset; the subtraction wraps. -/
theorem witness_EffectiveAddressAddsOrSubtractsOffset :
    w32.cfg.Valid ∧ (w32.effAddr ⟨1, 1, 0, 4095⟩).toNat = 0x1107 ∧ (w32.effAddr ⟨0, 1, 0, 4095⟩).toNat = 0xFFFFF109 := by decide

/-- Rd is Rn, at a word with a value, and at the last word of data memory, which has none. -/
theorem witness_LdrLoadsWholeWord :
    w32.cfg.Valid ∧ (1#4 : RegNum) ≠ 15#4 ∧ w32.accessOk (w32.effAddr ⟨0, 1, 1, 0⟩).toNat ∧
      w32.dmem.readLE (w32.effAddr ⟨0, 1, 1, 0⟩).toNat w32.cfg.wordBytes = some 0xCAFEF00D ∧
      w32.accessOk (w32.effAddr ⟨1, 1, 1, 756⟩).toNat ∧
      w32.dmem.readLE (w32.effAddr ⟨1, 1, 1, 756⟩).toNat w32.cfg.wordBytes = none := by decide

/-- The last word of data memory, 1020 to 1023, and the first. -/
theorem witness_StrStoresWholeRegister :
    w32.cfg.Valid ∧ (1#4 : RegNum) ≠ 15#4 ∧ (2#4 : RegNum) ≠ 15#4 ∧ (0#4 : RegNum) ≠ 15#4 ∧
      (w32.effAddr ⟨1, 1, 2, 756⟩).toNat = 1020 ∧ w32.accessOk (w32.effAddr ⟨1, 1, 2, 756⟩).toNat ∧
      (w32.effAddr ⟨0, 1, 2, 264⟩).toNat = 0 ∧ w32.accessOk (w32.effAddr ⟨0, 1, 2, 264⟩).toNat := by decide

/-- Misaligned and outside at once, 1022, is misaligned; 1024 is the first address outside; 1020 has no value. -/
theorem witness_LoadStoreStopsInOrder :
    (1#4 : RegNum) ≠ 15#4 ∧ (2#4 : RegNum) ≠ 15#4 ∧
      (w32.effAddr ⟨1, 1, 2, 758⟩).toNat = 1022 ∧ (w32.effAddr ⟨1, 1, 2, 758⟩).toNat % w32.cfg.wordBytes ≠ 0 ∧
      (w32.effAddr ⟨1, 1, 2, 760⟩).toNat % w32.cfg.wordBytes = 0 ∧
      w32.cfg.dmemBytes < (w32.effAddr ⟨1, 1, 2, 760⟩).toNat + w32.cfg.wordBytes ∧
      w32.accessOk (w32.effAddr ⟨1, 1, 2, 756⟩).toNat ∧
      w32.dmem.readLE (w32.effAddr ⟨1, 1, 2, 756⟩).toNat w32.cfg.wordBytes = none := by decide

/-- A word with a value, a word with none of its bytes, a word with one byte missing. -/
theorem witness_WordsAreLittleEndian :
    cafe.readLE 0x108 4 = some 0xCAFEF00D ∧ cafe.readLE 0x10C 4 = none ∧ cafe.readLE 0x109 4 = none := by decide

/-- The store of R2 at 0x10C, through R1; the load of the same word through R1 with the other U, to R14. -/
theorem witness_LoadAfterStoreReturnsStoredValue :
    ∃ t, exec (.str ⟨1, 1, 2, 4⟩) w32 = .next t ∧ w32.cfg.Valid ∧ (1#4 : RegNum) ≠ 15#4 ∧ (14#4 : RegNum) ≠ 15#4 ∧
      (t.effAddr ⟨1, 1, 14, 4⟩).toNat = (w32.effAddr ⟨1, 1, 2, 4⟩).toNat ∧
      after (exec (.ldr ⟨1, 1, 14, 4⟩) t) [14] = some (9, [0xFFFFFFFF]) := ⟨_, rfl, by decide⟩

/-- Each setting of BL_LINK. -/
theorem witness_BranchLinkWritesReturnAddress :
    w32.cfg.Valid ∧ w32.cfg.blLink = .r14Next ∧
      (start ⟨32, 1024, 0, .refuse, .refuse⟩ 511 0 [] []).cfg.Valid ∧
      (start ⟨32, 1024, 0, .refuse, .refuse⟩ 511 0 [] []).cfg.blLink = .refuse := by decide

/-- Register 14, the last an operand may be. -/
theorem witness_JrIsIdenticalToBx : (14#4 : RegNum) ≠ 15#4 ∧ refusal (exec (.jr 15) w32) = refusal (exec (.bx 15) w32) := by decide

/-- Register 14, the last an operand may be. -/
theorem witness_RegisterJumpsUseLowNineBits :
    (14#4 : RegNum) ≠ 15#4 ∧ after (exec (.bx 14) w32) [] = some (0x77, []) ∧
      after (exec (.jr 2) w32) [] = some (511, []) := by decide

/-- The call, and the state it leaves, in which register 14 still holds the link. -/
theorem witness_ReturnThroughR14ResumesAfterCall :
    ∃ t, exec (.bl 88) w32 = .next t ∧ w32.cfg.Valid ∧ t.regVal 14#4 = t.regVal 14#4 ∧
      after (exec (.bx 14) t) [] = some (8, []) := ⟨_, rfl, by decide⟩

/-- Equal registers, one register twice, and different registers; BL has its link. -/
theorem witness_AssemblerOffsetsReachTheLabel :
    w32.cfg.blLink = .r14Next ∧ (2#4 : RegNum) ≠ 15#4 ∧ (14#4 : RegNum) ≠ 15#4 ∧ w32.regVal 2 = w32.regVal 2 ∧
      w32.regVal 4 = w32.regVal 5 ∧ w32.regVal 2 ≠ w32.regVal 14 := by decide

/-- The clause that completes, and register 15 in each place. -/
theorem witness_SllShiftsLeftBySixBitAmount :
    w32.cfg.Valid ∧ (2#4 : RegNum) ≠ 15#4 ∧ (3#4 : RegNum) ≠ 15#4 ∧ (14#4 : RegNum) ≠ 15#4 ∧
      after (exec (.sll ⟨2, 14, 14⟩) w32) [14] = some (8, [0]) ∧
      refusal (exec (.sll ⟨15, 1, 2⟩) w32) = some .r15Operand ∧ refusal (exec (.sll ⟨1, 15, 2⟩) w32) = some .r15Operand ∧
      refusal (exec (.sll ⟨1, 2, 15⟩) w32) = some .r15Operand := by decide

theorem witness_SrlShiftsRightLogically :
    w32.cfg.Valid ∧ (2#4 : RegNum) ≠ 15#4 ∧ (0#4 : RegNum) ≠ 15#4 ∧ (14#4 : RegNum) ≠ 15#4 ∧
      after (exec (.srl ⟨2, 14, 0⟩) w32) [14] = some (8, [0xFFFFFFFF]) ∧
      refusal (exec (.srl ⟨15, 1, 2⟩) w32) = some .r15Operand ∧ refusal (exec (.srl ⟨1, 15, 2⟩) w32) = some .r15Operand ∧
      refusal (exec (.srl ⟨1, 2, 15⟩) w32) = some .r15Operand := by decide

/-- The amount is XLEN itself (R3 = 32), and 63, the largest (R2). -/
theorem witness_ShiftByWidthOrMoreGivesZero :
    w32.cfg.Valid ∧ (3#4 : RegNum) ≠ 15#4 ∧ (2#4 : RegNum) ≠ 15#4 ∧ (14#4 : RegNum) ≠ 15#4 ∧
      w32.cfg.xlen ≤ w32.regVal 3 % 64 ∧ w32.cfg.xlen ≤ w32.regVal 2 % 64 := by decide

/-- -1 against 0x108, both ways, and register 15. -/
theorem witness_SltComparesSigned :
    w32.cfg.Valid ∧ (2#4 : RegNum) ≠ 15#4 ∧ (1#4 : RegNum) ≠ 15#4 ∧ (14#4 : RegNum) ≠ 15#4 ∧
      ¬ w32.regVal 2 < 2 ^ (w32.cfg.xlen - 1) ∧ w32.regVal 1 < 2 ^ (w32.cfg.xlen - 1) ∧
      after (exec (.slt ⟨2, 14, 1⟩) w32) [14] = some (8, [1]) ∧ after (exec (.slt ⟨1, 14, 2⟩) w32) [14] = some (8, [0]) ∧
      refusal (exec (.slt ⟨15, 1, 2⟩) w32) = some .r15Operand := by decide

/-- Equal, different, and register 15 in each place. -/
theorem witness_BeqBranchesWhenEqual :
    (2#4 : RegNum) ≠ 15#4 ∧ (14#4 : RegNum) ≠ 15#4 ∧ w32.regVal 2 = w32.regVal 2 ∧ w32.regVal 2 ≠ w32.regVal 14 ∧
      after (exec (.beq ⟨2, 2, 0xFFFF⟩) w32) [] = some (8, []) ∧ after (exec (.beq ⟨2, 14, 5⟩) w32) [] = some (8, []) ∧
      refusal (exec (.beq ⟨15, 2, 0⟩) w32) = some .r15Operand ∧ refusal (exec (.beq ⟨2, 15, 0⟩) w32) = some .r15Operand := by
  decide

theorem witness_BneBranchesWhenNotEqual :
    (2#4 : RegNum) ≠ 15#4 ∧ (14#4 : RegNum) ≠ 15#4 ∧ w32.regVal 2 = w32.regVal 2 ∧ w32.regVal 2 ≠ w32.regVal 14 ∧
      after (exec (.bne ⟨2, 14, 0x7FFF⟩) w32) [] = some (8, []) ∧ after (exec (.bne ⟨2, 2, 5⟩) w32) [] = some (8, []) ∧
      refusal (exec (.bne ⟨15, 2, 0⟩) w32) = some .r15Operand ∧ refusal (exec (.bne ⟨2, 15, 0⟩) w32) = some .r15Operand := by
  decide

/-- One bit from the ill-formed AND; J and BEQ under the setting that has them; BEQ just past the overlap; JR. -/
theorem witness_DecodeOfEncodeIsIdentity :
    (Instr.andReg ⟨0, 0, 0, 1, 0⟩).wellFormed .refuse = true ∧ (Instr.j 511).wellFormed .j = true ∧
      (Instr.beq ⟨0, 0, 511⟩).wellFormed .beq = true ∧ (Instr.beq ⟨0, 0, 512⟩).wellFormed .refuse = true ∧
      (Instr.jr 15).wellFormed .refuse = true := by decide

/-- Rn = 0, for MOV. -/
theorem witness_DataProcessingWordsAreTheFormats :
    (⟨1, 0, 2, 0, 3⟩ : DprFields).rn = 0 ∧ encode (.movReg ⟨1, 2, 0, 3⟩) = 0xE1B02003 ∧
      (⟨0, 0, 1, 12, 255⟩ : DpiFields).rn = 0 ∧ encode (.movImm ⟨0, 1, 12, 255⟩) = 0xE3A01CFF := by decide

theorem witness_EncodeOfDecodeIsIdentity : decode .refuse 0xE0921FF3 = .ok (.addReg ⟨1, 2, 1, 0xFF, 3⟩) := rfl

/-- Opcode 0011 with I = 1, opcode 1111 with I = 0, opcode 1001 one bit from BX, and opcode 1001 with I = 1. -/
theorem witness_UnlistedOpcodesAreReserved :
    decode .refuse 0xE2600000 = .error .reservedEncoding ∧ decode .refuse 0xE1E00000 = .error .reservedEncoding ∧
      decode .refuse 0xE12FFF23 = .error .reservedEncoding ∧ decode .refuse 0xE3200000 = .error .reservedEncoding ∧
      (0xE12FFF23 : InstrWord).extractLsb' 28 4 = 0b1110#4 ∧ (0xE12FFF23 : InstrWord).extractLsb' 26 2 = 0b00#2 ∧
      (0xE12FFF23 : InstrWord).extractLsb' 21 4 = 0b1001#4 ∧ (0xE12FFF23 : InstrWord) &&& 0xFFFFFFF0#32 ≠ 0xE12FFF10#32 ∧
      (0xE2600000 : InstrWord).extractLsb' 28 4 = 0b1110#4 ∧ (0xE2600000 : InstrWord).extractLsb' 26 2 = 0b00#2 ∧
      (0xE2600000 : InstrWord).extractLsb' 21 4 = 0b0011#4 :=
  ⟨rfl, rfl, rfl, rfl, by decide⟩

/-- SLT with S = 1; SLL with bit 4 set; opcode 1011 with I = 1. -/
theorem witness_UnshownFormsOfNewOpcodesAreRefused :
    decode .refuse 0xE1700000 = .error .reservedEncoding ∧ decode .refuse 0xE0C00010 = .error .reservedEncoding ∧
      decode .refuse 0xE3600000 = .error .reservedEncoding ∧ decode .refuse 0xE2C00000 = .error .shiftByOneNotSpecified ∧
      (0xE1700000 : InstrWord).extractLsb' 25 1 = 0#1 ∧ (0xE1700000 : InstrWord).extractLsb' 20 1 = 1#1 ∧
      (0xE0C00010 : InstrWord).extractLsb' 4 8 ≠ 0#8 ∧ (0xE3600000 : InstrWord).extractLsb' 25 1 = 1#1 ∧
      (0xE3600000 : InstrWord).extractLsb' 21 4 = 0b1011#4 :=
  ⟨rfl, rfl, rfl, rfl, by decide⟩

/-- P = 0, B = 1, W = 1, bit 25 = 1, each alone (2.6). -/
theorem witness_UnshownLoadStoreFormsAreReserved :
    decode .refuse 0xE4100000 = .error .reservedEncoding ∧ decode .refuse 0xE5500000 = .error .reservedEncoding ∧
      decode .refuse 0xE5300000 = .error .reservedEncoding ∧ decode .refuse 0xE7900000 = .error .reservedEncoding ∧
      (0xE4100000 : InstrWord).extractLsb' 28 4 = 0b1110#4 ∧ (0xE4100000 : InstrWord).extractLsb' 26 2 = 0b01#2 ∧
      (0xE4100000 : InstrWord).extractLsb' 24 1 = 0#1 ∧ (0xE5500000 : InstrWord).extractLsb' 22 1 = 1#1 ∧
      (0xE5300000 : InstrWord).extractLsb' 21 1 = 1#1 ∧ (0xE7900000 : InstrWord).extractLsb' 25 1 = 1#1 :=
  ⟨rfl, rfl, rfl, rfl, by decide⟩

/-- The first and the last word of the class. -/
theorem witness_ClassElevenIsReserved :
    decode .refuse 0xEC000000 = .error .reservedEncoding ∧ decode .refuse 0xEFFFFFFF = .error .reservedEncoding ∧
      (0xEFFFFFFF : InstrWord).extractLsb' 28 4 = 0b1110#4 ∧ (0xEFFFFFFF : InstrWord).extractLsb' 26 2 = 0b11#2 :=
  ⟨rfl, rfl, by decide⟩

/-- 2.6: MOV with Rn = 1. -/
theorem witness_MovWithNonZeroRnIsReserved :
    decode .refuse 0xE1A10000 = .error .reservedEncoding ∧ (0xE1A10000 : InstrWord).extractLsb' 28 4 = 0b1110#4 ∧
      (0xE1A10000 : InstrWord).extractLsb' 26 2 = 0b00#2 ∧ (0xE1A10000 : InstrWord).extractLsb' 21 4 = 0b1101#4 ∧
      (0xE1A10000 : InstrWord).extractLsb' 16 4 ≠ 0#4 := ⟨rfl, by decide⟩

/-- The last word of the overlap, and BEQ words beside it: off16 = 512, and Rm = 1 (2.5 #8, 2.6). -/
theorem witness_OverlapSettlesJAndBeq :
    decode .j 0xE80001FF = .ok (.j 511) ∧ decode .refuse 0xE8000200 = .ok (.beq ⟨0, 0, 512⟩) ∧
      decode .j 0xE8010000 = .ok (.beq ⟨0, 1, 0⟩) ∧ 512 ≤ (512#16).toNat ∧ (1#4 : RegNum) ≠ 0#4 :=
  ⟨rfl, rfl, rfl, by decide⟩

/-- A word that decodes, one that does not, and a pc without a word. -/
theorem witness_StepRunsDecodedInstruction :
    (start x32 511 0xEB000058 [] []).imem.read 511 = some 0xEB000058 ∧ decode x32.jBeqOverlap 0xEB000058 = .ok (.bl 88) ∧
      (start x32 0 0xE0600000 [] []).imem.read 0 = some 0xE0600000 ∧
      decode x32.jBeqOverlap 0xE0600000 = .error .reservedEncoding ∧ State.reset.imem.read State.reset.pc = none :=
  ⟨rfl, rfl, rfl, rfl, rfl⟩

/-- At reset, and in a state with registers and data memory, where another word stands at the pc. -/
theorem witness_LoadedWordRunsNext :
    decode State.reset.cfg.jBeqOverlap 0xE3A010FF = .ok (.movImm ⟨0, 1, 0, 255⟩) ∧ decode w32.cfg.jBeqOverlap 0xE3A010FF = .ok (.movImm ⟨0, 1, 0, 255⟩) ∧
      after (step (State.reset.withFetchWord 32 0xE3A010FF)) [1] = some (1, [255]) ∧
      after (step (w32.withFetchWord 32 0xE3A010FF)) [1, 2] = some (8, [255, 0xFFFFFFFF]) := ⟨rfl, rfl, by decide⟩

/-- Register 15 read, and written. -/
theorem witness_RegisterFifteenIsRefused :
    15#4 ∈ (Instr.bx 15).reads ++ (Instr.bx 15).writes ∧ 15#4 ∈ (Instr.movImm ⟨0, 15, 0, 0⟩).reads ++
      (Instr.movImm ⟨0, 15, 0, 0⟩).writes := by decide

/-- A fault, and a refusal of each kind, the accesses at the boundaries: 1020 is the last word, 1022 is misaligned and outside at once. -/
theorem witness_StopsAreTheSpecsClosedList :
    fault (exec (.ldr ⟨1, 0, 0, 1020⟩) State.reset) = some (.unwrittenMemory 1020) ∧
      refusal (exec (.ldr ⟨1, 0, 0, 1022⟩) State.reset) = some (.misalignedAccess 1022) ∧
      refusal (exec (.str ⟨1, 0, 0, 1024⟩) State.reset) = some (.accessOutsideMemory 1024) ∧
      refusal (exec (.bl 0) (start ⟨32, 1024, 0, .refuse, .refuse⟩ 0 0 [] [])) = some .blLinkNotSpecified ∧
      refusal (exec (.jr 15) State.reset) = some .r15Operand := by decide

/-- A load, a store at the last word of data memory and BL complete; each stops where its condition fails: a load of that last word, which
has no value, a store one word further, BL under BL_LINK = refuse, and register 15. -/
theorem witness_InstructionsCompleteExactlyWhen :
    Completes (.ldr ⟨0, 1, 14, 0⟩) w32 ∧ Completes (.str ⟨1, 1, 2, 756⟩) w32 ∧ Completes (.bl 0) w32 ∧ Completes .nop w32 ∧
      ¬ Completes (.ldr ⟨1, 1, 14, 756⟩) w32 ∧ ¬ Completes (.str ⟨1, 1, 2, 760⟩) w32 ∧
      ¬ Completes (.bl 0) (start ⟨32, 1024, 0, .refuse, .refuse⟩ 0 0 [] []) ∧ ¬ Completes (.bx 15) w32 :=
  ⟨⟨by decide, by decide, 0xCAFEF00D, by decide⟩, ⟨by decide, (by decide : w32.accessOk _)⟩, ⟨by decide, rfl⟩, ⟨by decide, trivial⟩,
    (by rintro ⟨-, -, v, h⟩; cases h), fun h => absurd (h.2 : w32.accessOk _) (by decide), fun h => (nomatch h.2),
    fun h => absurd h.1 (by decide)⟩

/-- A store at the last word address. -/
theorem witness_OtherInstructionsAdvancePcByOne :
    (Instr.str ⟨1, 1, 2, 0⟩).isControlTransfer = false ∧
      ∃ t, exec (.str ⟨1, 1, 2, 0⟩) (start x32 511 0 [(1, 0x108)] []) = .next t ∧ t.pc = 0 := ⟨rfl, _, rfl, rfl⟩

/-- A store, a byte before it and a byte after it; a register BL does not write. -/
theorem witness_InstructionsChangeOnlyTheirDestinations :
    (∃ t, exec (.str ⟨1, 1, 2, 0⟩) w32 = .next t ∧
      0x107 < (w32.effAddr ⟨1, 1, 2, 0⟩).toNat ∧ (w32.effAddr ⟨1, 1, 2, 0⟩).toNat + w32.cfg.wordBytes ≤ 0x10C) ∧
    (∃ t, exec (.bl 0) w32 = .next t) ∧ 13#4 ∉ (Instr.bl 0).writes := ⟨⟨_, rfl, by decide⟩, ⟨_, rfl⟩, by decide⟩

/-- The registers changed are none the instruction reads. -/
theorem witness_EffectDependsOnlyOnRegistersRead :
    ∀ r ∈ (Instr.ldr ⟨1, 1, 2, 0⟩).reads, ({ w32 with regs := w32.regs.set 2 5 } : State).regVal r = w32.regVal r := by decide

/-- A state with data memory and a program, and a step from it. -/
theorem witness_StepKeepsInvariant : w32.Inv ∧ ∃ t, step w32 = .next t :=
  ⟨⟨by decide, by decide, by decide, by decide, by decide⟩, _, rfl⟩

/-- A run of one step. -/
theorem witness_RunsNeverChangeTheProgram : ∃ t, Reaches (start x32 0 0xE0000000 [] []) t ∧ t.pc = 1 :=
  ⟨_, .tail .refl rfl, rfl⟩

theorem witness_RunsNeverChangeRegisterFifteen : ∃ t, Reaches (start x32 0 0xEB000000 [] []) t ∧ t.regVal 14 = 1 :=
  ⟨_, .tail .refl rfl, by decide⟩

/-- The largest value, in the last register. -/
theorem witness_LaunchPlacesItsParameters :
    (14#4 : RegNum) ≠ 15#4 ∧ lookup [(14, 0xFFFFFFFF)] (14#4).toNat = some 0xFFFFFFFF ∧ 0xFFFFFFFF < 2 ^ x32.xlen := by decide

/-- The word B to itself (2.4 #1), B with another off24 of the same low bits, and J to itself under j. -/
theorem witness_EndedRunsStayPut :
    (start x32 7 0xEAFFFFFE [] []).ended = true ∧ (start x32 7 0xEA0001FE [] []).ended = true ∧
      (start ⟨32, 1024, 0, .j, .r14Next⟩ 7 0xE8000007 [] []).ended = true := by decide

theorem witness_FinalStateIsUnique : RunEndsIn w32 w32 := ⟨.refl, by decide⟩

/-- At a B to itself every run is padded. -/
theorem dataPaddedFor_of_self_loop {s : State} {off24 : BitVec 24} (hi : s.instrAtPc = some (.b off24)) (hs : step s = .next s)
    (k : Nat) (recent : List (List RegNum)) (n : Nat) : dataPaddedFor k recent n s = true := by
  induction n generalizing recent with
  | zero => rfl
  | succ n ih => simp [dataPaddedFor, hi, hs, ih, Instr.reads]

/-- MOV R1,#5, a NOP, ADD R2,R1,R1, B to itself and two NOPs: after the B come the two NOPs, and between the write of R1 and its read
stands one instruction. -/
def padded : State :=
  State.launch x32 [(0, 0xE3A01005), (1, 0xE0000000), (2, 0xE0812001), (3, 0xEAFFFFFE), (4, 0xE0000000), (5, 0xE0000000)] [] []

/-- The state has the invariant and is Padded(2, 1), but not Padded(2, 2) and not Padded(3, 1); the second clause has a case with a read, two
steps after the write. -/
theorem witness_PaddedKeepsNopsAndDistance :
    padded.Inv ∧ Padded 2 1 padded ∧ ¬ Padded 2 2 padded ∧ ¬ Padded 3 1 padded ∧
      padded.instrAtPc = some (.movImm ⟨0, 1, 0, 5⟩) ∧
      ∃ u, padded.afterSteps 2 = some u ∧ u.instrAtPc = some (.addReg ⟨0, 1, 2, 0, 1⟩) := by
  refine ⟨⟨by decide, by decide, by decide, by decide, by decide⟩, ⟨by decide, ?_⟩, fun h => absurd (h.2 3) (by decide),
    fun h => absurd h.1 (by decide), rfl, _, rfl, rfl⟩
  intro n
  match n with
  | 0 => rfl
  | 1 => rfl
  | 2 => rfl
  | n + 3 => exact dataPaddedFor_of_self_loop (off24 := 0xFFFFFE) rfl rfl 1 _ n

end Sys2Proof.Tests
end

section
/-! The words of formats DPI and DPR (R64, R65) as the bitwise or of their fields, each shifted to its place. -/

namespace Sys2Proof

/-- A field appended above an `m`-bit field stands `m` places higher in every word that holds the two. -/
theorem setWidth_append_eq_or {n m : Nat} (x : BitVec n) (y : BitVec m) (k : Nat) :
    (x ++ y).setWidth k = x.setWidth k <<< m ||| y.setWidth k := by
  ext j hj
  simp only [BitVec.getElem_or, BitVec.getElem_shiftLeft, BitVec.getElem_setWidth, BitVec.getLsbD_append]
  rcases Nat.lt_or_ge j m with hm | hm
  · simp [hm]
  · simp [Nat.not_lt.mpr hm, y.getLsbD_of_ge j hm]

/-- The S, Rn, Rd, rot and imm8 fields of a DPI word in their places (R64). -/
def DpiFields.low (f : DpiFields) : InstrWord :=
  f.s.setWidth 32 <<< 20 ||| f.rn.setWidth 32 <<< 16 ||| f.rd.setWidth 32 <<< 12 ||| f.rot.setWidth 32 <<< 8 |||
    f.imm8.setWidth 32

/-- The S, Rn, Rd, [11:4] and Rm fields of a DPR word in their places (R65). -/
def DprFields.low (f : DprFields) : InstrWord :=
  f.s.setWidth 32 <<< 20 ||| f.rn.setWidth 32 <<< 16 ||| f.rd.setWidth 32 <<< 12 ||| f.ignored.setWidth 32 <<< 4 |||
    f.rm.setWidth 32

/-- R64: cond = 1110, op = 00 and I = 1 are the constant 0xE2000000; the opcode begins at bit 21. -/
theorem encodeDpi_eq_or (op : BitVec 4) (f : DpiFields) :
    encodeDpi op f = 0xE2000000#32 ||| op.setWidth 32 <<< 21 ||| f.low := by
  rw [← BitVec.setWidth_eq (encodeDpi op f)]
  simp only [encodeDpi, DpiFields.low, setWidth_append_eq_or, BitVec.shiftLeft_or_distrib, ← BitVec.shiftLeft_add]
  simp [BitVec.or_assoc]

/-- R65: cond = 1110, op = 00 and I = 0 are the constant 0xE0000000; the opcode begins at bit 21. -/
theorem encodeDpr_eq_or (op : BitVec 4) (f : DprFields) :
    encodeDpr op f = 0xE0000000#32 ||| op.setWidth 32 <<< 21 ||| f.low := by
  rw [← BitVec.setWidth_eq (encodeDpr op f)]
  simp only [encodeDpr, DprFields.low, setWidth_append_eq_or, BitVec.shiftLeft_or_distrib, ← BitVec.shiftLeft_add]
  simp [BitVec.or_assoc]

/-- MOV has no Rn field of its own: its word is the DPI word with Rn = 0 (R84). -/
theorem encode_movImm_of_rn_zero {f : DpiFields} (h : f.rn = 0) :
    encode (.movImm ⟨f.s, f.rd, f.rot, f.imm8⟩) = encodeDpi 0b1101#4 f := by
  obtain ⟨s, rn, rd, rot, imm8⟩ := f
  subst h
  rfl

/-- MOV has no Rn field of its own: its word is the DPR word with Rn = 0 (R84). -/
theorem encode_movReg_of_rn_zero {f : DprFields} (h : f.rn = 0) :
    encode (.movReg ⟨f.s, f.rd, f.ignored, f.rm⟩) = encodeDpr 0b1101#4 f := by
  obtain ⟨s, rn, rd, ignored, rm⟩ := f
  subst h
  rfl

/-- Settles O39: each word is its format's word for its opcode, which `encodeDpi_eq_or` and `encodeDpr_eq_or` take apart. -/
theorem dataProcessingWordsAreTheFormats : Obligations.DataProcessingWordsAreTheFormats := by
  unfold Obligations.DataProcessingWordsAreTheFormats
  constructor
  · intro f
    have word (op : BitVec 4) := encodeDpi_eq_or op f
    exact ⟨f.low, rfl, word _, word _, word _, word _, word _, word _, word _,
      fun h => (encode_movImm_of_rn_zero h).trans (word _)⟩
  · intro f
    have word (op : BitVec 4) := encodeDpr_eq_or op f
    exact ⟨f.low, rfl, word _, word _, word _, word _, word _, word _, word _,
      fun h => (encode_movReg_of_rn_zero h).trans (word _)⟩

end Sys2Proof
end

section
/-! Load and store: the word of format LSI (R71) as the bitwise or of its fields, the effective address (R130), and what LDR (R132) and
STR (R133) do when they complete. -/

namespace Sys2Proof

/-- R71: cond = 1110, op = 01 and P = 1 are the constant 0xE5000000; U is bit 23 and L bit 20. -/
theorem encodeLsi_eq_or (l : BitVec 1) (f : LsiFields) :
    encodeLsi l f = (0xE5000000#32 ||| f.u.setWidth 32 <<< 23 ||| l.setWidth 32 <<< 20) ||| f.rn.setWidth 32 <<< 16 |||
      f.rd.setWidth 32 <<< 12 ||| f.imm12.setWidth 32 := by
  rw [← BitVec.setWidth_eq (encodeLsi l f)]
  simp only [encodeLsi, setWidth_append_eq_or, BitVec.shiftLeft_or_distrib, ← BitVec.shiftLeft_add]
  simp [BitVec.or_assoc]

/-- Bit 23 of the constant is U; the rest of the word does not depend on it. -/
theorem encodeLsi_eq_or_ite (l : BitVec 1) (f : LsiFields) :
    encodeLsi l f = (if f.u = 1#1 then 0xE5800000#32 ||| l.setWidth 32 <<< 20 else 0xE5000000#32 ||| l.setWidth 32 <<< 20) |||
      f.rn.setWidth 32 <<< 16 ||| f.rd.setWidth 32 <<< 12 ||| f.imm12.setWidth 32 := by
  rw [encodeLsi_eq_or]
  rcases BitVec.eq_zero_or_eq_one f.u with hu | hu <;> rw [hu] <;> rfl

end Sys2Proof

namespace Sys2Proof.Machine

/-! ### Widths -/

/-- A register is exactly WORD_BYTES bytes wide (R9). -/
theorem pow_wordBytes_of_valid {c : Config} (h : c.Valid) : 256 ^ c.wordBytes = 2 ^ c.xlen := by
  have hx : 8 * c.wordBytes = c.xlen := by
    have h8 : c.xlen % 8 = 0 := h.1
    unfold Config.wordBytes
    omega
  rw [← hx, Nat.pow_mul]

/-- A register holds every 12-bit offset, so extending the offset to XLEN bits keeps its value. -/
theorem toNat_setWidth_imm12_of_valid {c : Config} (h : c.Valid) (imm12 : BitVec 12) :
    (imm12.setWidth c.xlen).toNat = imm12.toNat := by
  have hx : 12 ≤ c.xlen := by have := h.2; omega
  exact BitVec.toNat_setWidth_of_le hx

/-! ### The effective address -/

theorem toNat_effAddr_of_u_one {s : State} {f : LsiFields} (hv : s.cfg.Valid) (hu : f.u = 1#1) :
    (s.effAddr f).toNat = (s.regVal f.rn + f.imm12.toNat) % 2 ^ s.cfg.xlen := by
  rw [State.effAddr, if_pos hu, BitVec.toNat_add, toNat_setWidth_imm12_of_valid hv]
  rfl

/-- `BitVec` adds the two's complement of the offset; the offset is below 2^XLEN, so this is the difference modulo 2^XLEN. -/
theorem toNat_effAddr_of_u_zero {s : State} {f : LsiFields} (hv : s.cfg.Valid) (hu : f.u = 0#1) :
    (s.effAddr f).toNat = (s.regVal f.rn + 2 ^ s.cfg.xlen - f.imm12.toNat) % 2 ^ s.cfg.xlen := by
  have himm := toNat_setWidth_imm12_of_valid hv f.imm12
  have hlt : f.imm12.toNat < 2 ^ s.cfg.xlen := himm ▸ (f.imm12.setWidth s.cfg.xlen).isLt
  rw [State.effAddr, if_neg (by simp [hu]), BitVec.toNat_sub, himm]
  congr 1
  show 2 ^ s.cfg.xlen - f.imm12.toNat + s.regVal f.rn = _
  omega

/-! ### LDR and STR -/

/-- What a LDR that completes did (R131, R132). -/
theorem exec_ldr_eq_next {f : LsiFields} {s t : State} :
    exec (.ldr f) s = .next t ↔
      15#4 ∉ [f.rn, f.rd] ∧ s.accessOk (s.effAddr f).toNat ∧
        ∃ v, s.dmem.readLE (s.effAddr f).toNat s.cfg.wordBytes = some v ∧ s.writeBack f.rd (BitVec.ofNat s.cfg.xlen v) = t := by
  show execLdr f s = _ ↔ _
  rw [execLdr, unlessR15_eq_next, loadWord_eq_next]
  simp only [Host.Outcome.next.injEq]

/-- What a STR that completes did (R131, R133). -/
theorem exec_str_eq_next {f : LsiFields} {s t : State} :
    exec (.str f) s = .next t ↔
      15#4 ∉ [f.rn, f.rd] ∧ s.accessOk (s.effAddr f).toNat ∧
        (s.setDMem (s.dmem.writeLE (s.effAddr f).toNat s.cfg.wordBytes (s.regVal f.rd))).advance = t := by
  show execStr f s = _ ↔ _
  rw [execStr, unlessR15_eq_next, storeWord_eq_next, Host.Outcome.next.injEq]
  rfl

/-- A load that passes its checks faults where a byte of the word has no value (R44). -/
theorem loadWord_of_readLE_none {s : State} {ea : BitVec s.cfg.xlen} {k : BitVec s.cfg.xlen → Result} (hok : s.accessOk ea.toNat)
    (h : s.dmem.readLE ea.toNat s.cfg.wordBytes = none) : s.loadWord ea k = .fault (.unwrittenMemory ea.toNat) := by
  simp only [State.loadWord, accessRefusal_eq_none.mpr hok, h]

theorem exec_ldr_of_readLE_none {f : LsiFields} {s : State} (h15 : 15#4 ∉ [f.rn, f.rd]) (hok : s.accessOk (s.effAddr f).toNat)
    (h : s.dmem.readLE (s.effAddr f).toNat s.cfg.wordBytes = none) :
    exec (.ldr f) s = .fault (.unwrittenMemory (s.effAddr f).toNat) :=
  (unlessR15_of_not_mem h15).trans (loadWord_of_readLE_none hok h)

/-- A loaded word fits the register, so x[Rd] holds all of it. -/
theorem completesWriting_ldr {f : LsiFields} {s : State} {v : Nat} (hv : s.cfg.Valid) (h15 : 15#4 ∉ [f.rn, f.rd])
    (hok : s.accessOk (s.effAddr f).toNat) (hread : s.dmem.readLE (s.effAddr f).toNat s.cfg.wordBytes = some v) :
    CompletesWriting (.ldr f) s f.rd v := by
  have hlt : v < 2 ^ s.cfg.xlen := pow_wordBytes_of_valid hv ▸ Memory.readLE_lt hread
  refine ⟨_, exec_ldr_eq_next.mpr ⟨h15, hok, v, hread, rfl⟩, rfl, ?_, onlyRegsChange_writeBack _ _ _⟩
  rw [regVal_writeBack, if_pos rfl, BitVec.toNat_ofNat, Nat.mod_eq_of_lt hlt]

/-- A stored register fits the word, so nothing is truncated. -/
theorem readLE_writeLE_regVal {s : State} (hv : s.cfg.Valid) (m : Memory) (a : Nat) (r : RegNum) :
    (m.writeLE a s.cfg.wordBytes (s.regVal r)).readLE a s.cfg.wordBytes = some (s.regVal r) := by
  rw [Memory.readLE_writeLE, pow_wordBytes_of_valid hv, Nat.mod_eq_of_lt (regVal_lt s r)]

theorem onlyBytesChange_writeLE (s : State) (ea n v : Nat) :
    OnlyBytesChange ea n s (s.setDMem (s.dmem.writeLE ea n v)).advance :=
  ⟨rfl, rfl, fun _ => rfl, fun _ ha => Memory.read_writeLE_outside s.dmem ha⟩

theorem not_mem_lsi_regs {f : LsiFields} (hn : f.rn ≠ 15#4) (hd : f.rd ≠ 15#4) : 15#4 ∉ [f.rn, f.rd] := by
  simp [hn.symm, hd.symm]

/-! ### The obligations -/

/-- Settles O9: for U = 0 by the offset being below 2^XLEN. -/
theorem effectiveAddressAddsOrSubtractsOffset : Obligations.EffectiveAddressAddsOrSubtractsOffset := by
  unfold Obligations.EffectiveAddressAddsOrSubtractsOffset
  exact fun s f hv => ⟨toNat_effAddr_of_u_one hv, toNat_effAddr_of_u_zero hv⟩

/-- Settles O10: the word by its format, and the two outcomes of a load that passes its checks. -/
theorem ldrLoadsWholeWord : Obligations.LdrLoadsWholeWord := by
  unfold Obligations.LdrLoadsWholeWord
  refine fun f => ⟨encodeLsi_eq_or_ite 1#1 f, fun s hv hn hd hok => ?_⟩
  have h15 := not_mem_lsi_regs hn hd
  exact ⟨fun v hread => completesWriting_ldr hv h15 hok hread, exec_ldr_of_readLE_none h15 hok⟩

/-- Settles O11: the word by its format, and the state a store that passes its checks leaves. -/
theorem strStoresWholeRegister : Obligations.StrStoresWholeRegister := by
  unfold Obligations.StrStoresWholeRegister
  refine fun f => ⟨encodeLsi_eq_or_ite 0#1 f, fun s hv hn hd hok => ?_⟩
  exact ⟨_, exec_str_eq_next.mpr ⟨not_mem_lsi_regs hn hd, hok, rfl⟩, rfl, readLE_writeLE_regVal hv _ _ _,
    onlyBytesChange_writeLE _ _ _ _⟩

end Sys2Proof.Machine
end

section
/-! Branches: the word of format BR24 (R72) as the bitwise or of its offset, the target of B and BL (R140), and the jump of B (R141). -/

namespace Sys2Proof

/-- R72: cond = 1110 is the constant 0xE0000000; inst[27:24] = `k` begins at bit 24. -/
theorem br24_eq_or (k : BitVec 4) (off24 : BitVec 24) :
    0b1110#4 ++ k ++ off24 = 0xE0000000#32 ||| k.setWidth 32 <<< 24 ||| off24.setWidth 32 := by
  rw [← BitVec.setWidth_eq (0b1110#4 ++ k ++ off24)]
  simp only [setWidth_append_eq_or, BitVec.shiftLeft_or_distrib, ← BitVec.shiftLeft_add]
  simp

end Sys2Proof

namespace Sys2Proof.Machine

/-- R140: the target of B and BL in the numbers of R141; a sum of 9-bit words is the sum of their values modulo 512. -/
theorem branchTarget24_eq_ofNat (a : WordAddr) (off24 : BitVec 24) :
    branchTarget24 a off24 = BitVec.ofNat 9 ((a.toNat + 2 + off24.toNat % 512) % 512) := by
  apply BitVec.eq_of_toNat_eq
  simp [branchTarget24]

/-- An instruction that does no more than set the pc completes at its target. -/
theorem completesAt_of_exec_eq_setPc {i : Instr} {s : State} {target : WordAddr} (h : exec i s = .next (s.setPc target)) :
    CompletesAt i s target :=
  ⟨_, h, rfl, onlyRegsChange_setPc s target⟩

/-- B jumps to its target from every state (R141). -/
theorem completesAt_b (off24 : BitVec 24) (s : State) : CompletesAt (.b off24) s (branchTarget24 s.pc off24) :=
  completesAt_of_exec_eq_setPc rfl

/-- Settles O15: the word by its format, and the jump to the target, read as a number. -/
theorem branchGoesTwoPastPlusOffset : Obligations.BranchGoesTwoPastPlusOffset := by
  unfold Obligations.BranchGoesTwoPastPlusOffset
  refine fun off24 => ⟨br24_eq_or 0b1010#4 off24, fun s => ?_⟩
  rw [← branchTarget24_eq_ofNat]
  exact completesAt_b off24 s

end Sys2Proof.Machine
end

section
/-! The new instructions: the words of formats RRR and CB16 (R70, R74) and of J (R76) as the bitwise or of their fields, what the shapes
that SLL and SLT, BEQ and BNE share do and when they refuse register 15, and the value or target of each instruction in the numbers
of its rule. -/

namespace Sys2Proof

/-! ### Words -/

/-- R70: cond = 1110 and inst[27:25] = 000 are the constant 0xE0000000; the opcode begins at bit 21. -/
theorem encodeRrr_eq_or (op : BitVec 4) (f : RrrFields) :
    encodeRrr op f = 0xE0000000#32 ||| op.setWidth 32 <<< 21 ||| f.rn.setWidth 32 <<< 16 ||| f.rd.setWidth 32 <<< 12 |||
      f.rm.setWidth 32 := by
  rw [← BitVec.setWidth_eq (encodeRrr op f)]
  simp only [encodeRrr, setWidth_append_eq_or, BitVec.shiftLeft_or_distrib, ← BitVec.shiftLeft_add]
  simp

/-- R74: cond = 1110 is the constant 0xE0000000; inst[27:24] = `k` begins at bit 24. -/
theorem encodeCb16_eq_or (k : BitVec 4) (f : Cb16Fields) :
    encodeCb16 k f = 0xE0000000#32 ||| k.setWidth 32 <<< 24 ||| f.rn.setWidth 32 <<< 20 ||| f.rm.setWidth 32 <<< 16 |||
      f.off16.setWidth 32 := by
  rw [← BitVec.setWidth_eq (encodeCb16 k f)]
  simp only [encodeCb16, setWidth_append_eq_or, BitVec.shiftLeft_or_distrib, ← BitVec.shiftLeft_add]
  simp

/-- R76: every bit of J's word above target9 is fixed. -/
theorem encode_j_eq_or (target9 : BitVec 9) : encode (.j target9) = 0xE8000000#32 ||| target9.setWidth 32 := by
  rw [encode, ← BitVec.setWidth_eq (0b111010#6 ++ 0#17 ++ target9), setWidth_append_eq_or]
  rfl

/-! ### Decoding J -/

theorem encode_j_fields (target9 : BitVec 9) :
    condField (encode (.j target9)) = 0b1110#4 ∧ opField (encode (.j target9)) = 0b10#2 ∧
      (encode (.j target9)).extractLsb' 24 2 = 0b00#2 ∧ (encode (.j target9)).extractLsb' 9 15 = 0#15 ∧
      (encode (.j target9)).extractLsb' 0 9 = target9 := by
  unfold encode
  simp (disch := omega) only [condField, opField, extract_append_low, extract_append_high]
  simp

/-- NOP and BX are in class op = 00, so a word of class op = 10 goes past them to the branches (R75). -/
theorem decode_of_opField_two {w : InstrWord} (o : JBeqOverlap) (hcond : condField w = 0b1110#4) (hop : opField w = 0b10#2) :
    decode o w = decodeBranch o w := by
  have hnop : w ≠ 0xE0000000#32 := fun h => absurd (h ▸ hop) (by decide)
  have hbx : w.extractLsb' 4 28 ≠ 0xE12FFF1#28 := fun h => absurd (opField_of_bx h ▸ hop) (by decide)
  rw [decode, if_neg (not_not.mpr hcond), if_neg hnop, if_neg hbx, hop]
  rfl

/-- R79: J_BEQ_OVERLAP = j reads the word as J. -/
theorem decode_encode_j (target9 : BitVec 9) : decode .j (encode (.j target9)) = .ok (.j target9) := by
  obtain ⟨hcond, hop, hkind, hzero, htarget⟩ := encode_j_fields target9
  rw [decode_of_opField_two .j hcond hop, decodeBranch, hkind]
  simp only [BitVec.toNat_ofNat, Nat.zero_mod, if_pos hzero, decodeOverlap, htarget]

end Sys2Proof

namespace Sys2Proof.Machine

/-! ### The shapes that formats RRR and CB16 share -/

theorem completesWriting_of_exec_eq_rrrResult {i : Instr} {f : RrrFields} {s : State} {v : BitVec s.cfg.xlen}
    (h : exec i s = rrrResult f s v) (hn : f.rn ≠ 15#4) (hm : f.rm ≠ 15#4) (hd : f.rd ≠ 15#4) :
    CompletesWriting i s f.rd v.toNat := by
  have h15 : 15#4 ∉ [f.rn, f.rm, f.rd] := by simp [hn.symm, hm.symm, hd.symm]
  refine ⟨_, h.trans (rrrResult_eq_next.mpr ⟨h15, rfl⟩), rfl, ?_, onlyRegsChange_writeBack s f.rd v⟩
  rw [regVal_writeBack, if_pos rfl]

theorem rrrResult_of_r15 {f : RrrFields} (h : f.rn = 15#4 ∨ f.rm = 15#4 ∨ f.rd = 15#4) (s : State) (v : BitVec s.cfg.xlen) :
    rrrResult f s v = .refused .r15Operand :=
  unlessR15_of_mem (by simpa [eq_comm] using h)

/-- R160: the target of a taken BEQ or BNE in the numbers of R161; a sum of 9-bit words is the sum of their values modulo 512. -/
theorem branchTarget16_eq_ofNat (a : WordAddr) (off16 : BitVec 16) :
    branchTarget16 a off16 = BitVec.ofNat 9 ((a.toNat + 2 + off16.toNat % 512) % 512) := by
  apply BitVec.eq_of_toNat_eq
  simp [branchTarget16]

theorem completesAt_of_exec_eq_branchOn {i : Instr} {f : Cb16Fields} {s : State} {p : Prop} [Decidable p]
    (h : exec i s = branchOn (decide p) f s) (hn : f.rn ≠ 15#4) (hm : f.rm ≠ 15#4) :
    CompletesAt i s (if p then branchTarget16 s.pc f.off16 else s.pc + 1) := by
  have h15 : 15#4 ∉ [f.rn, f.rm] := by simp [hn.symm, hm.symm]
  refine completesAt_of_exec_eq_setPc (h.trans (branchOn_eq_next.mpr ⟨h15, ?_⟩))
  simp only [decide_eq_true_eq]
  exact apply_ite s.setPc p _ _

theorem branchOn_of_r15 {f : Cb16Fields} (h : f.rn = 15#4 ∨ f.rm = 15#4) (taken : Bool) (s : State) :
    branchOn taken f s = .refused .r15Operand :=
  unlessR15_of_mem (by simpa [eq_comm] using h)

/-! ### Shift amounts and comparisons -/

/-- x[Rm][5:0] as a number (R151). -/
theorem shiftAmount_eq_mod (s : State) (rm : RegNum) : s.shiftAmount rm = s.regVal rm % 64 :=
  BitVec.toNat_setWidth 6 (s.reg rm)

/-- The pattern SLL writes (R152). -/
theorem toNat_reg_shiftLeft (s : State) (rn rm : RegNum) :
    (s.reg rn <<< s.shiftAmount rm).toNat = s.regVal rn * 2 ^ (s.regVal rm % 64) % 2 ^ s.cfg.xlen := by
  rw [BitVec.toNat_shiftLeft, Nat.shiftLeft_eq, shiftAmount_eq_mod]
  rfl

/-- The two's complement reading: a pattern with its top bit set counts from -2^XLEN. -/
theorem toInt_reg_eq_ite {s : State} (hv : s.cfg.Valid) (r : RegNum) :
    (s.reg r).toInt =
      if s.regVal r < 2 ^ (s.cfg.xlen - 1) then (s.regVal r : Int) else (s.regVal r : Int) - 2 ^ s.cfg.xlen := by
  have hx : s.cfg.xlen ≠ 0 := by have := hv.2; omega
  have htop : 2 * (s.reg r).toNat < 2 ^ s.cfg.xlen ↔ s.regVal r < 2 ^ (s.cfg.xlen - 1) := by
    rw [← mul_pow_sub_one hx 2]
    exact Nat.mul_lt_mul_left Nat.two_pos
  rw [BitVec.toInt_eq_toNat_cond]
  simp only [htop, Nat.cast_pow, Nat.cast_ofNat]
  rfl

/-- A register has room for the 1 that SLT writes. -/
theorem toNat_ite_one_zero {c : Config} (hv : c.Valid) (b : Bool) :
    (if b then 1#c.xlen else 0#c.xlen).toNat = if b then 1 else 0 := by
  have hx : 0 < c.xlen := by have := hv.2; omega
  cases b
  · rfl
  · exact BitVec.toNat_one hx

/-- Registers agree in all XLEN bits exactly when they hold the same number. -/
theorem regsEqual_eq_decide (s : State) (rn rm : RegNum) : s.regsEqual rn rm = decide (s.regVal rn = s.regVal rm) := by
  rw [State.regsEqual, beq_eq_decide]
  exact decide_eq_decide.mpr BitVec.toNat_inj.symm

/-! ### What each instruction does -/

theorem completesWriting_slt {f : RrrFields} {s : State} (hv : s.cfg.Valid) (hn : f.rn ≠ 15#4) (hm : f.rm ≠ 15#4)
    (hd : f.rd ≠ 15#4) :
    CompletesWriting (.slt f) s f.rd (if (s.reg f.rn).toInt < (s.reg f.rm).toInt then 1 else 0) := by
  have h := completesWriting_of_exec_eq_rrrResult (i := .slt f) (s := s) rfl hn hm hd
  rw [toNat_ite_one_zero hv] at h
  simpa only [State.signedLess, decide_eq_true_eq] using h

theorem exec_beq (f : Cb16Fields) (s : State) :
    exec (.beq f) s = branchOn (decide (s.regVal f.rn = s.regVal f.rm)) f s := by
  rw [← regsEqual_eq_decide]
  rfl

theorem exec_bne (f : Cb16Fields) (s : State) :
    exec (.bne f) s = branchOn (decide (s.regVal f.rn ≠ s.regVal f.rm)) f s := by
  rw [decide_not, ← regsEqual_eq_decide]
  rfl

/-- J jumps to its target from every state (R158). -/
theorem completesAt_j (target9 : BitVec 9) (s : State) : CompletesAt (.j target9) s target9 :=
  completesAt_of_exec_eq_setPc rfl

/-! ### The obligations -/

/-- Settles O22: the word by its format; the value written is the shifted register read as a number. -/
theorem sllShiftsLeftBySixBitAmount : Obligations.SllShiftsLeftBySixBitAmount := by
  unfold Obligations.SllShiftsLeftBySixBitAmount
  refine fun f => ⟨encodeRrr_eq_or 0b0110#4 f, fun s _ => ⟨fun hn hm hd => ?_, fun h15 => rrrResult_of_r15 h15 s _⟩⟩
  rw [← toNat_reg_shiftLeft]
  exact completesWriting_of_exec_eq_rrrResult rfl hn hm hd

/-- Settles O25: the word by its format; the model's comparison is that of the two's complement readings. -/
theorem sltComparesSigned : Obligations.SltComparesSigned := by
  unfold Obligations.SltComparesSigned
  refine fun f => ⟨encodeRrr_eq_or 0b1011#4 f, fun s hv => ⟨fun hn hm hd x y hx hy => ?_, fun h15 => rrrResult_of_r15 h15 s _⟩⟩
  rw [hx, hy, ← toInt_reg_eq_ite hv, ← toInt_reg_eq_ite hv]
  exact completesWriting_slt hv hn hm hd

/-- Settles O26: J's word and its decoding under j; the meaning only sets the pc. -/
theorem jumpGoesToAbsoluteTarget : Obligations.JumpGoesToAbsoluteTarget := by
  unfold Obligations.JumpGoesToAbsoluteTarget
  exact fun target9 => ⟨encode_j_eq_or target9, decode_encode_j target9, completesAt_j target9⟩

/-- Settles O27: the word by its format; BEQ branches on the equality of the two register values. -/
theorem beqBranchesWhenEqual : Obligations.BeqBranchesWhenEqual := by
  unfold Obligations.BeqBranchesWhenEqual
  refine fun f => ⟨encodeCb16_eq_or 0b1000#4 f, fun s => ⟨fun hn hm => ?_, fun h15 => branchOn_of_r15 h15 _ s⟩⟩
  rw [← branchTarget16_eq_ofNat]
  exact completesAt_of_exec_eq_branchOn (exec_beq f s) hn hm

/-- Settles O28: the word by its format; BNE branches on the inequality of the two register values. -/
theorem bneBranchesWhenNotEqual : Obligations.BneBranchesWhenNotEqual := by
  unfold Obligations.BneBranchesWhenNotEqual
  refine fun f => ⟨encodeCb16_eq_or 0b1001#4 f, fun s => ⟨fun hn hm => ?_, fun h15 => branchOn_of_r15 h15 _ s⟩⟩
  rw [← branchTarget16_eq_ofNat]
  exact completesAt_of_exec_eq_branchOn (exec_bne f s) hn hm

end Sys2Proof.Machine
end

section
/-! The decoder class by class (R75): which sub-decoder a word's class and I select, what each gives back and what it refuses, and the
round trips between words and instructions. -/

namespace Sys2Proof

/-! ### Fields of fields, and fields under a mask -/

/-- A part of a field whose value is known. -/
theorem subfield_eq {n lo len lo' len' : Nat} {x : BitVec n} {v : BitVec len} (h : x.extractLsb' lo len = v)
    (hle : lo' + len' ≤ len) : x.extractLsb' (lo + lo') len' = v.extractLsb' lo' len' := by
  rw [← h, extract_extract x hle]

/-- A field that the mask keeps whole is the field of the masked word. -/
theorem field_of_mask {n lo len : Nat} {x mask v : BitVec n} (h : x &&& mask = v)
    (hkeep : mask.extractLsb' lo len = BitVec.allOnes len) : x.extractLsb' lo len = v.extractLsb' lo len := by
  rw [← h, BitVec.extractLsb'_and, hkeep, BitVec.and_allOnes]

/-! ### The sub-decoder of a word -/

theorem condField_of_bx {w : InstrWord} (h : w.extractLsb' 4 28 = 0xE12FFF1#28) : condField w = 0b1110#4 :=
  subfield_eq (lo' := 24) h (by decide)

theorem iField_of_bx {w : InstrWord} (h : w.extractLsb' 4 28 = 0xE12FFF1#28) : iField w = 0#1 :=
  subfield_eq (lo' := 21) h (by decide)

/-- NOP and BX are in class op = 00. -/
theorem not_nop_not_bx_of_opField_ne {w : InstrWord} (hop : opField w ≠ 0b00#2) :
    w ≠ 0xE0000000#32 ∧ w.extractLsb' 4 28 ≠ 0xE12FFF1#28 :=
  ⟨fun h => hop (h ▸ rfl), fun h => hop (opField_of_bx h)⟩

section
variable (o : JBeqOverlap) {w : InstrWord}

theorem decode_of_condField_ne (hcond : condField w ≠ 0b1110#4) : decode o w = .error .condNotAlways := if_pos hcond

theorem decode_nop : decode o 0xE0000000#32 = .ok .nop := rfl

theorem decode_of_bx (h : w.extractLsb' 4 28 = 0xE12FFF1#28) : decode o w = .ok (.bx (w.extractLsb' 0 4)) := by
  have hnop : w ≠ 0xE0000000#32 := fun hw => absurd (hw ▸ h) (by decide)
  rw [decode, if_neg (not_not.mpr (condField_of_bx h)), if_neg hnop, if_pos h]

/-- NOP and BX have I = 0. -/
theorem decode_of_iField_one (hcond : condField w = 0b1110#4) (hop : opField w = 0b00#2) (hi : iField w = 1#1) :
    decode o w = decodeDpi w := by
  have hnop : w ≠ 0xE0000000#32 := fun h => absurd (h ▸ hi) (by decide)
  have hbx : w.extractLsb' 4 28 ≠ 0xE12FFF1#28 := fun h => absurd (iField_of_bx h ▸ hi) (by decide)
  rw [decode, if_neg (not_not.mpr hcond), if_neg hnop, if_neg hbx, hop, hi]
  rfl

theorem decode_of_iField_zero (hcond : condField w = 0b1110#4) (hop : opField w = 0b00#2) (hi : iField w = 0#1)
    (hnop : w ≠ 0xE0000000#32) (hbx : w.extractLsb' 4 28 ≠ 0xE12FFF1#28) : decode o w = decodeDpr w := by
  rw [decode, if_neg (not_not.mpr hcond), if_neg hnop, if_neg hbx, hop, hi]
  rfl

theorem decode_of_opField_one (hcond : condField w = 0b1110#4) (hop : opField w = 0b01#2) :
    decode o w = decodeLoadStore w := by
  obtain ⟨hnop, hbx⟩ := not_nop_not_bx_of_opField_ne (hop ▸ by decide : opField w ≠ 0b00#2)
  rw [decode, if_neg (not_not.mpr hcond), if_neg hnop, if_neg hbx, hop]
  rfl

theorem decode_of_opField_three (hcond : condField w = 0b1110#4) (hop : opField w = 0b11#2) :
    decode o w = .error .reservedEncoding := by
  obtain ⟨hnop, hbx⟩ := not_nop_not_bx_of_opField_ne (hop ▸ by decide : opField w ≠ 0b00#2)
  rw [decode, if_neg (not_not.mpr hcond), if_neg hnop, if_neg hbx, hop]
  rfl

end

theorem bitVec_two_cases : ∀ x : BitVec 2, x = 0b00#2 ∨ x = 0b01#2 ∨ x = 0b10#2 ∨ x = 0b11#2 := by decide

/-- Every word is read by one of the rules of R75. -/
theorem decode_cases (w : InstrWord) :
    condField w ≠ 0b1110#4 ∨ w = 0xE0000000#32 ∨ w.extractLsb' 4 28 = 0xE12FFF1#28 ∨
      condField w = 0b1110#4 ∧
        (opField w = 0b00#2 ∧ iField w = 1#1 ∨
          opField w = 0b00#2 ∧ iField w = 0#1 ∧ w ≠ 0xE0000000#32 ∧ w.extractLsb' 4 28 ≠ 0xE12FFF1#28 ∨
          opField w = 0b01#2 ∨ opField w = 0b10#2 ∨ opField w = 0b11#2) := by
  have := bitVec_two_cases (opField w)
  have := BitVec.eq_zero_or_eq_one (iField w)
  tauto

/-! ### A word from its fields -/

theorem encodeDpi_dpiFields {w : InstrWord} (hcond : condField w = 0b1110#4) (hop : opField w = 0b00#2) (hi : iField w = 1#1) :
    encodeDpi (opcodeField w) (dpiFields w) = w := by
  rw [encodeDpi, ← hcond, ← hop, ← hi, dpiFields]
  simp (disch := decide) only [extract_join, condField, opField, iField, opcodeField]
  exact BitVec.extractLsb'_eq_self

theorem encodeDpr_dprFields {w : InstrWord} (hcond : condField w = 0b1110#4) (hop : opField w = 0b00#2) (hi : iField w = 0#1) :
    encodeDpr (opcodeField w) (dprFields w) = w := by
  rw [encodeDpr, ← hcond, ← hop, ← hi, dprFields]
  simp (disch := decide) only [extract_join, condField, opField, iField, opcodeField]
  exact BitVec.extractLsb'_eq_self

theorem encodeLsi_lsiFields {w : InstrWord} (hcond : condField w = 0b1110#4) (hop : opField w = 0b01#2)
    (hip : w.extractLsb' 24 2 = 0b01#2) (hbw : w.extractLsb' 21 2 = 0b00#2) :
    encodeLsi (w.extractLsb' 20 1) (lsiFields w) = w := by
  have h25 : w.extractLsb' 25 1 = 0#1 := subfield_eq (lo' := 1) hip (by decide)
  have h24 : w.extractLsb' 24 1 = 1#1 := subfield_eq (lo' := 0) hip (by decide)
  have h22 : w.extractLsb' 22 1 = 0#1 := subfield_eq (lo' := 1) hbw (by decide)
  have h21 : w.extractLsb' 21 1 = 0#1 := subfield_eq (lo' := 0) hbw (by decide)
  have hjoin : condField w ++ opField w ++ w.extractLsb' 25 1 ++ w.extractLsb' 24 1 ++ w.extractLsb' 23 1 ++
      w.extractLsb' 22 1 ++ w.extractLsb' 21 1 ++ w.extractLsb' 20 1 ++ w.extractLsb' 16 4 ++ w.extractLsb' 12 4 ++
      w.extractLsb' 0 12 = w := by
    simp (disch := decide) only [extract_join, condField, opField]
    exact BitVec.extractLsb'_eq_self
  rw [hcond, hop, h25, h24, h22, h21] at hjoin
  exact hjoin

theorem encodeCb16_cb16Fields {w : InstrWord} (hcond : condField w = 0b1110#4) :
    encodeCb16 (w.extractLsb' 24 4) (cb16Fields w) = w := by
  rw [encodeCb16, ← hcond, cb16Fields]
  simp (disch := decide) only [extract_join, condField]
  exact BitVec.extractLsb'_eq_self

theorem br24_off24 {w : InstrWord} (hcond : condField w = 0b1110#4) :
    0b1110#4 ++ w.extractLsb' 24 4 ++ w.extractLsb' 0 24 = w := by
  rw [← hcond]
  simp (disch := decide) only [extract_join, condField]
  exact BitVec.extractLsb'_eq_self

theorem encode_bx_rm {w : InstrWord} (h : w.extractLsb' 4 28 = 0xE12FFF1#28) : encode (.bx (w.extractLsb' 0 4)) = w := by
  show 0xE12FFF1#28 ++ w.extractLsb' 0 4 = w
  rw [← h, extract_join w (by decide)]
  exact BitVec.extractLsb'_eq_self

theorem encode_j_target9 {w : InstrWord} (h : w.extractLsb' 9 23 = 0x740000#23) : encode (.j (w.extractLsb' 0 9)) = w := by
  show 0x740000#23 ++ w.extractLsb' 0 9 = w
  rw [← h, extract_join w (by decide)]
  exact BitVec.extractLsb'_eq_self

/-! ### The words with two readings -/

theorem eq_zero_of_isNopWord {f : DprFields} (h : f.isNopWord = true) : f = ⟨0, 0, 0, 0, 0⟩ := by
  obtain ⟨s, rn, rd, ignored, rm⟩ := f
  simpa [DprFields.isNopWord, and_assoc] using h

theorem toNat_off16_lt_iff (w : InstrWord) : (w.extractLsb' 0 16).toNat < 512 ↔ w.extractLsb' 9 7 = 0#7 := by
  rw [← BitVec.toNat_inj]
  simp only [BitVec.extractLsb'_toNat, BitVec.toNat_ofNat, Nat.shiftRight_eq_div_pow]
  omega

/-- The words of R79, inst[27:24] = 1000 with bits [23:9] zero, are told by their upper 23 bits. -/
theorem overlap_high_bits {w : InstrWord} (hcond : condField w = 0b1110#4) (hk : w.extractLsb' 24 4 = 0b1000#4)
    (hzero : w.extractLsb' 9 15 = 0#15) : w.extractLsb' 9 23 = 0x740000#23 := by
  have hjoin : condField w ++ w.extractLsb' 24 4 ++ w.extractLsb' 9 15 = w.extractLsb' 9 23 := by
    simp (disch := decide) only [extract_join, condField]
  rw [← hjoin, hcond, hk, hzero]
  rfl

/-- R79: a word of BEQ is a word of J when bits [23:9] are zero. -/
theorem isJWord_cb16Fields (w : InstrWord) : (cb16Fields w).isJWord = true ↔ w.extractLsb' 9 15 = 0#15 := by
  have hjoin : w.extractLsb' 20 4 ++ w.extractLsb' 16 4 ++ w.extractLsb' 9 7 = w.extractLsb' 9 15 := by
    simp (disch := decide) only [extract_join]
  simp only [Cb16Fields.isJWord, cb16Fields, Bool.and_eq_true, beq_iff_eq, decide_eq_true_eq, toNat_off16_lt_iff]
  constructor
  · rintro ⟨⟨hn, hm⟩, hoff⟩
    rw [← hjoin, hn, hm, hoff]
    rfl
  · intro h
    exact ⟨⟨subfield_eq (lo' := 11) h (by decide), subfield_eq (lo' := 7) h (by decide)⟩, subfield_eq (lo' := 0) h (by decide)⟩

end Sys2Proof
end

section
/-! The round trips between instructions and words (R75, R77, R79). -/

namespace Sys2Proof

/-! ### decode of encode, format by format -/

theorem br24_fields (k : BitVec 4) (off24 : BitVec 24) :
    condField (0b1110#4 ++ k ++ off24) = 0b1110#4 ∧ (0b1110#4 ++ k ++ off24).extractLsb' 24 4 = k ∧
      (0b1110#4 ++ k ++ off24).extractLsb' 0 24 = off24 := by
  simp (disch := omega) only [condField, extract_append_low, extract_append_high]
  simp

theorem bx_fields (rm : RegNum) :
    (encode (.bx rm)).extractLsb' 4 28 = 0xE12FFF1#28 ∧ (encode (.bx rm)).extractLsb' 0 4 = rm := by
  unfold encode
  simp (disch := omega) only [extract_append_low, extract_append_high]
  simp

theorem decodeDpi_of_mov {w : InstrWord} {f : MovImmFields} (hopcode : opcodeField w = 0b1101#4)
    (hf : dpiFields w = ⟨f.s, 0, f.rd, f.rot, f.imm8⟩) : decodeDpi w = .ok (.movImm f) := by
  have hrn : w.extractLsb' 16 4 = 0#4 := congrArg DpiFields.rn hf
  have hmov : movImmFields w = f := congrArg (fun g : DpiFields => MovImmFields.mk g.s g.rd g.rot g.imm8) hf
  rw [decodeDpi, hopcode, ← hmov]
  exact if_pos hrn

theorem decodeDpr_of_mov {w : InstrWord} {f : MovRegFields} (hopcode : opcodeField w = 0b1101#4)
    (hf : dprFields w = ⟨f.s, 0, f.rd, f.ignored, f.rm⟩) : decodeDpr w = .ok (.movReg f) := by
  have hrn : w.extractLsb' 16 4 = 0#4 := congrArg DprFields.rn hf
  have hmov : movRegFields w = f := congrArg (fun g : DprFields => MovRegFields.mk g.s g.rd g.ignored g.rm) hf
  rw [decodeDpr, hopcode, ← hmov]
  exact if_pos hrn

section
variable (o : JBeqOverlap)

theorem decode_encode_bx (rm : RegNum) : decode o (encode (.bx rm)) = .ok (.bx rm) := by
  obtain ⟨hbx, hrm⟩ := bx_fields rm
  rw [decode_of_bx o hbx, hrm]

theorem decode_encodeDpi {op : BitVec 4} {f : DpiFields} {i : Instr}
    (h : ∀ w, opcodeField w = op → dpiFields w = f → decodeDpi w = .ok i) : decode o (encodeDpi op f) = .ok i := by
  obtain ⟨hcond, hop, hi, hopcode, hf⟩ := encodeDpi_fields op f
  rw [decode_of_iField_one o hcond hop hi, h _ hopcode hf]

/-- Opcode 1001 is BX's; the only NOP among the DPR words is AND with every field zero. -/
theorem decode_encodeDpr {op : BitVec 4} {f : DprFields} {i : Instr} (hbx : op ≠ 0b1001#4)
    (hnop : op ≠ 0b0000#4 ∨ f.isNopWord = false) (h : ∀ w, opcodeField w = op → dprFields w = f → decodeDpr w = .ok i) :
    decode o (encodeDpr op f) = .ok i := by
  obtain ⟨hcond, hop, hi, hopcode, hf⟩ := encodeDpr_fields op f
  have hnop' : encodeDpr op f ≠ 0xE0000000#32 := by
    intro hw
    rw [hw] at hopcode hf
    rw [← hopcode, ← hf] at hnop
    exact absurd hnop (by decide)
  have hbx' : (encodeDpr op f).extractLsb' 4 28 ≠ 0xE12FFF1#28 := fun hw => hbx (hopcode ▸ opcodeField_of_bx hw)
  rw [decode_of_iField_zero o hcond hop hi hnop' hbx', h _ hopcode hf]

theorem decode_encodeRrr {op : BitVec 4} {f : RrrFields} {i : Instr} (hbx : op ≠ 0b1001#4) (hnop : op ≠ 0b0000#4)
    (h : ∀ w, opcodeField w = op → rrrFields w = f → decodeDpr w = whenRrr w i) : decode o (encodeRrr op f) = .ok i := by
  obtain ⟨hcond, hop, hi, hopcode, hs, hzero, hf⟩ := encodeRrr_fields op f
  have hnop' : encodeRrr op f ≠ 0xE0000000#32 := by
    intro hw
    rw [hw] at hopcode
    exact hnop hopcode.symm
  have hbx' : (encodeRrr op f).extractLsb' 4 28 ≠ 0xE12FFF1#28 := fun hw => hbx (hopcode ▸ opcodeField_of_bx hw)
  rw [decode_of_iField_zero o hcond hop hi hnop' hbx', h _ hopcode hf, whenRrr, if_pos ⟨hs, hzero⟩]

theorem decode_encodeLsi (l : BitVec 1) (f : LsiFields) :
    decode o (encodeLsi l f) = if l = 1#1 then .ok (.ldr f) else .ok (.str f) := by
  obtain ⟨hcond, hop, hip, hbw, hl, hf⟩ := encodeLsi_fields l f
  rw [decode_of_opField_one o hcond hop, decodeLoadStore, if_pos ⟨hip, hbw⟩, hl, hf]

/-- R75 steps 6 and 7: inst[27:26] = 10 is the class of the branches, inst[25:24] their kind. -/
theorem decode_of_class_two {w : InstrWord} {k : BitVec 4} (hcond : condField w = 0b1110#4) (h : w.extractLsb' 24 4 = k)
    (hk : k.extractLsb' 2 2 = 0b10#2) : decode o w = decodeBranch o w ∧ w.extractLsb' 24 2 = k.extractLsb' 0 2 :=
  ⟨decode_of_opField_two o hcond ((subfield_eq (lo' := 2) h (by decide)).trans hk), subfield_eq (lo' := 0) h (by decide)⟩

theorem decode_encode_b (off24 : BitVec 24) : decode o (encode (.b off24)) = .ok (.b off24) := by
  obtain ⟨hcond, hk, hoff⟩ := br24_fields 0b1010#4 off24
  obtain ⟨hdecode, hkind⟩ := decode_of_class_two o hcond hk (by decide)
  rw [encode, hdecode, decodeBranch, hkind, hoff]
  rfl

theorem decode_encode_bl (off24 : BitVec 24) : decode o (encode (.bl off24)) = .ok (.bl off24) := by
  obtain ⟨hcond, hk, hoff⟩ := br24_fields 0b1011#4 off24
  obtain ⟨hdecode, hkind⟩ := decode_of_class_two o hcond hk (by decide)
  rw [encode, hdecode, decodeBranch, hkind, hoff]
  rfl

theorem decode_encode_bne (f : Cb16Fields) : decode o (encode (.bne f)) = .ok (.bne f) := by
  obtain ⟨hcond, hk, hf⟩ := encodeCb16_fields 0b1001#4 f
  obtain ⟨hdecode, hkind⟩ := decode_of_class_two o hcond hk (by decide)
  rw [encode, hdecode, decodeBranch, hkind, hf]
  rfl

/-- inst[27:24] = 1000: the overlap's words and BEQ's others. -/
theorem decode_of_beq_kind {w : InstrWord} (hcond : condField w = 0b1110#4) (hk : w.extractLsb' 24 4 = 0b1000#4) :
    decode o w = if w.extractLsb' 9 15 = 0#15 then decodeOverlap o w else .ok (.beq (cb16Fields w)) := by
  obtain ⟨hdecode, hkind⟩ := decode_of_class_two o hcond hk (by decide)
  rw [hdecode, decodeBranch, hkind]
  rfl

/-- BEQ comes back where its word is no word of J, or the setting is beq (R79). -/
theorem decode_encode_beq {f : Cb16Fields} (h : o = .beq ∨ f.isJWord = false) :
    decode o (encode (.beq f)) = .ok (.beq f) := by
  obtain ⟨hcond, hk, hf⟩ := encodeCb16_fields 0b1000#4 f
  rw [encode, decode_of_beq_kind o hcond hk, hf]
  split
  · next hzero =>
    have hj : f.isJWord = true := hf ▸ (isJWord_cb16Fields _).mpr hzero
    rw [hj] at h
    rw [h.resolve_right (by decide), decodeOverlap, hf]
  · rfl

end

/-- Settles O29: each format's word decodes to the instruction of its opcode; NOP and BX are told apart by the opcode, and J from BEQ by
the setting. -/
theorem decodeOfEncodeIsIdentity : Obligations.DecodeOfEncodeIsIdentity := by
  unfold Obligations.DecodeOfEncodeIsIdentity
  intro o i hwf
  cases i with
  | nop => exact decode_nop o
  | bx rm | jr rm => exact decode_encode_bx o rm
  | addImm f | subImm f | andImm f | orrImm f | eorImm f | cmpImm f | tstImm f =>
    exact decode_encodeDpi o fun w hopcode hf => by rw [decodeDpi, hopcode, hf]; rfl
  | movImm f => exact decode_encodeDpi o fun w => decodeDpi_of_mov
  | addReg f | subReg f | orrReg f | eorReg f | cmpReg f | tstReg f =>
    exact decode_encodeDpr o (by decide) (.inl (by decide)) fun w hopcode hf => by rw [decodeDpr, hopcode, hf]; rfl
  | andReg f =>
    have hnop : f.isNopWord = false := by simpa [Instr.wellFormed] using hwf
    exact decode_encodeDpr o (by decide) (.inr hnop) fun w hopcode hf => by rw [decodeDpr, hopcode, hf]; rfl
  | movReg f => exact decode_encodeDpr o (by decide) (.inl (by decide)) fun w => decodeDpr_of_mov
  | sll f | srl f | slt f =>
    exact decode_encodeRrr o (by decide) (by decide) fun w hopcode hf => by rw [decodeDpr, hopcode, hf]; rfl
  | ldr f => exact decode_encodeLsi o 1#1 f
  | str f => exact decode_encodeLsi o 0#1 f
  | b off24 => exact decode_encode_b o off24
  | bl off24 => exact decode_encode_bl o off24
  | bne f => exact decode_encode_bne o f
  | beq f => exact decode_encode_beq o (by simpa [Instr.wellFormed] using hwf)
  | j target9 =>
    have ho : o = .j := by simpa [Instr.wellFormed] using hwf
    exact ho ▸ decode_encode_j target9

/-! ### encode of decode, sub-decoder by sub-decoder -/

/-- What the decoder promises of the instruction it gives for a word: no bit of the word is dropped, and the instruction is one that
`wellFormed` admits and no JR. -/
def ReadsBack (o : JBeqOverlap) (w : InstrWord) (i : Instr) : Prop :=
  encode i = w ∧ i.wellFormed o = true ∧ i.canonical = i

section
variable (o : JBeqOverlap) {w : InstrWord} {i i' : Instr}

theorem whenRnZero_eq_ok (h : whenRnZero w i = .ok i') : w.extractLsb' 16 4 = 0#4 ∧ i = i' := by
  unfold whenRnZero at h
  split at h
  · exact ⟨‹_›, Except.ok.inj h⟩
  · cases h

theorem whenRrr_eq_ok (h : whenRrr w i = .ok i') : (w.extractLsb' 20 1 = 0#1 ∧ w.extractLsb' 4 8 = 0#8) ∧ i = i' := by
  unfold whenRrr at h
  split at h
  · exact ⟨‹_›, Except.ok.inj h⟩
  · cases h

theorem opcodeField_eq_ofNat {k : Nat} (h : (opcodeField w).toNat = k) : opcodeField w = BitVec.ofNat 4 k := by
  rw [← h, BitVec.ofNat_toNat, BitVec.setWidth_eq]

theorem readsBack_of_decodeDpi (hcond : condField w = 0b1110#4) (hop : opField w = 0b00#2) (hi : iField w = 1#1)
    (h : decodeDpi w = .ok i) : ReadsBack o w i := by
  have hw := encodeDpi_dpiFields hcond hop hi
  unfold decodeDpi at h
  split at h
  -- the seven instructions with a DPI row of their own
  case h_1 hopcode | h_2 hopcode | h_3 hopcode | h_4 hopcode | h_7 hopcode | h_8 hopcode | h_9 hopcode =>
    cases h
    rw [opcodeField_eq_ofNat hopcode] at hw
    exact ⟨hw, rfl, rfl⟩
  -- MOV
  case h_10 hopcode =>
    obtain ⟨hrn, rfl⟩ := whenRnZero_eq_ok h
    rw [opcodeField_eq_ofNat hopcode, dpiFields, hrn] at hw
    exact ⟨hw, rfl, rfl⟩
  -- the opcodes without an instruction
  case h_5 | h_6 | h_11 => cases h

theorem readsBack_of_decodeDpr (hcond : condField w = 0b1110#4) (hop : opField w = 0b00#2) (hi : iField w = 0#1)
    (hnop : w ≠ 0xE0000000#32) (h : decodeDpr w = .ok i) : ReadsBack o w i := by
  have hw := encodeDpr_dprFields hcond hop hi
  unfold decodeDpr at h
  split at h
  -- AND, whose word with every field zero is NOP's
  case h_1 hopcode =>
    cases h
    rw [opcodeField_eq_ofNat hopcode] at hw
    refine ⟨hw, ?_, rfl⟩
    have hf : (dprFields w).isNopWord ≠ true := fun hf => hnop (by rw [← hw, eq_zero_of_isNopWord hf]; rfl)
    simpa [Instr.wellFormed] using hf
  -- the six other instructions with a DPR row of their own
  case h_2 hopcode | h_3 hopcode | h_4 hopcode | h_7 hopcode | h_8 hopcode | h_10 hopcode =>
    cases h
    rw [opcodeField_eq_ofNat hopcode] at hw
    exact ⟨hw, rfl, rfl⟩
  -- SLL, SRL and SLT
  case h_5 hopcode | h_6 hopcode | h_9 hopcode =>
    obtain ⟨⟨hs, hzero⟩, rfl⟩ := whenRrr_eq_ok h
    rw [opcodeField_eq_ofNat hopcode, dprFields, hs, hzero] at hw
    exact ⟨hw, rfl, rfl⟩
  -- MOV
  case h_11 hopcode =>
    obtain ⟨hrn, rfl⟩ := whenRnZero_eq_ok h
    rw [opcodeField_eq_ofNat hopcode, dprFields, hrn] at hw
    exact ⟨hw, rfl, rfl⟩
  case h_12 => cases h

theorem readsBack_of_decodeLoadStore (hcond : condField w = 0b1110#4) (hop : opField w = 0b01#2)
    (h : decodeLoadStore w = .ok i) : ReadsBack o w i := by
  unfold decodeLoadStore at h
  split at h
  · next hfixed =>
    obtain ⟨hip, hbw⟩ := hfixed
    have hw := encodeLsi_lsiFields hcond hop hip hbw
    rcases BitVec.eq_zero_or_eq_one (w.extractLsb' 20 1) with hl | hl <;> rw [hl] at h hw <;> cases h <;>
      exact ⟨hw, rfl, rfl⟩
  · cases h

theorem readsBack_of_decodeOverlap (hw : w.extractLsb' 9 23 = 0x740000#23) (h : decodeOverlap o w = .ok i) :
    ReadsBack o w i := by
  cases o with
  | refuse => cases h
  | j =>
    cases h
    exact ⟨encode_j_target9 hw, rfl, rfl⟩
  | beq =>
    cases h
    have hword := encodeCb16_cb16Fields (w := w) (subfield_eq (lo' := 19) hw (by decide))
    rw [subfield_eq (lo' := 15) (len' := 4) hw (by decide)] at hword
    exact ⟨hword, rfl, rfl⟩

theorem readsBack_of_decodeBranch (hcond : condField w = 0b1110#4) (hop : opField w = 0b10#2)
    (h : decodeBranch o w = .ok i) : ReadsBack o w i := by
  have hk : opField w ++ w.extractLsb' 24 2 = w.extractLsb' 24 4 := extract_join w (by decide)
  rcases bitVec_two_cases (w.extractLsb' 24 2) with hkind | hkind | hkind | hkind <;> rw [hop, hkind] at hk <;>
    rw [decodeBranch, hkind] at h
  · by_cases hzero : w.extractLsb' 9 15 = 0#15
    · exact readsBack_of_decodeOverlap o (overlap_high_bits hcond hk.symm hzero) ((if_pos hzero).symm.trans h)
    · cases (if_neg hzero).symm.trans h
      have hword := encodeCb16_cb16Fields hcond
      rw [← hk] at hword
      refine ⟨hword, ?_, rfl⟩
      have hj : (cb16Fields w).isJWord ≠ true := fun hj => hzero ((isJWord_cb16Fields w).mp hj)
      simp [Instr.wellFormed, hj]
  · cases h
    have hword := encodeCb16_cb16Fields hcond
    rw [← hk] at hword
    exact ⟨hword, rfl, rfl⟩
  all_goals
    cases h
    have hword := br24_off24 hcond
    rw [← hk] at hword
    exact ⟨hword, rfl, rfl⟩

end

/-- Settles O30: every sub-decoder reads its class back. -/
theorem encodeOfDecodeIsIdentity : Obligations.EncodeOfDecodeIsIdentity := by
  unfold Obligations.EncodeOfDecodeIsIdentity
  intro o w i h
  show ReadsBack o w i
  rcases decode_cases w with hcond | rfl | hbx | ⟨hcond, ⟨hop, hi⟩ | ⟨hop, hi, hnop, hbx⟩ | hop | hop | hop⟩
  · cases decode_of_condField_ne o hcond ▸ h
  · cases h
    exact ⟨rfl, rfl, rfl⟩
  · cases decode_of_bx o hbx ▸ h
    exact ⟨encode_bx_rm hbx, rfl, rfl⟩
  · exact readsBack_of_decodeDpi o hcond hop hi (decode_of_iField_one o hcond hop hi ▸ h)
  · exact readsBack_of_decodeDpr o hcond hop hi hnop (decode_of_iField_zero o hcond hop hi hnop hbx ▸ h)
  · exact readsBack_of_decodeLoadStore o hcond hop (decode_of_opField_one o hcond hop ▸ h)
  · exact readsBack_of_decodeBranch o hcond hop (decode_of_opField_two o hcond hop ▸ h)
  · cases decode_of_opField_three o hcond hop ▸ h

end Sys2Proof
end

section
/-! What the decoder refuses, and why (R62, R79 to R84); and that it accepts exactly the words of the opcode table. -/

namespace Sys2Proof

/-! ### The reasons of each sub-decoder -/

section
variable {o : JBeqOverlap} {w : InstrWord} {i : Instr} {e : DecodeRefusal}

theorem whenRnZero_eq_error (h : whenRnZero w i = .error e) : e = .reservedEncoding := by
  unfold whenRnZero at h
  split at h <;> cases h
  rfl

theorem whenRrr_eq_error (h : whenRrr w i = .error e) : e = .reservedEncoding := by
  unfold whenRrr at h
  split at h <;> cases h
  rfl

theorem decodeDpi_eq_error (h : decodeDpi w = .error e) :
    e = .shiftByOneNotSpecified ∧ opcodeField w ∈ [0b0110#4, 0b0111#4] ∨ e = .reservedEncoding := by
  unfold decodeDpi at h
  split at h
  case h_5 hopcode | h_6 hopcode =>
    cases h
    exact .inl ⟨rfl, by rw [opcodeField_eq_ofNat hopcode]; decide⟩
  case h_10 => exact .inr (whenRnZero_eq_error h)
  case h_11 => exact .inr (Except.error.inj h).symm
  all_goals cases h

theorem decodeDpr_eq_error (h : decodeDpr w = .error e) : e = .reservedEncoding := by
  unfold decodeDpr at h
  split at h
  case h_5 | h_6 | h_9 => exact whenRrr_eq_error h
  case h_11 => exact whenRnZero_eq_error h
  case h_12 => exact (Except.error.inj h).symm
  all_goals cases h

theorem decodeLoadStore_eq_error (h : decodeLoadStore w = .error e) : e = .reservedEncoding := by
  unfold decodeLoadStore at h
  split at h
  · split at h <;> cases h
  · exact (Except.error.inj h).symm

theorem decodeBranch_eq_error (h : decodeBranch o w = .error e) : e = .ambiguousJOrBeq := by
  unfold decodeBranch at h
  split at h
  case h_4 =>
    split at h
    · cases o <;> cases h
      rfl
    · cases h
  all_goals cases h

/-- The reasons of the decoder; the two that the spec gives to words of one shape alone come with that shape. -/
theorem decode_eq_error (h : decode o w = .error e) :
    e = .condNotAlways ∧ condField w ≠ 0b1110#4 ∨
      e = .shiftByOneNotSpecified ∧ condField w = 0b1110#4 ∧ opField w = 0b00#2 ∧ iField w = 1#1 ∧
        opcodeField w ∈ [0b0110#4, 0b0111#4] ∨
      e = .reservedEncoding ∨ e = .ambiguousJOrBeq := by
  rcases decode_cases w with hcond | rfl | hbx | ⟨hcond, ⟨hop, hi⟩ | ⟨hop, hi, hnop, hbx⟩ | hop | hop | hop⟩
  · rw [decode_of_condField_ne o hcond] at h
    exact .inl ⟨(Except.error.inj h).symm, hcond⟩
  · cases h
  · cases decode_of_bx o hbx ▸ h
  · rw [decode_of_iField_one o hcond hop hi] at h
    rcases decodeDpi_eq_error h with ⟨he, hopcode⟩ | he
    · exact .inr (.inl ⟨he, hcond, hop, hi, hopcode⟩)
    · exact .inr (.inr (.inl he))
  · rw [decode_of_iField_zero o hcond hop hi hnop hbx] at h
    exact .inr (.inr (.inl (decodeDpr_eq_error h)))
  · rw [decode_of_opField_one o hcond hop] at h
    exact .inr (.inr (.inl (decodeLoadStore_eq_error h)))
  · rw [decode_of_opField_two o hcond hop] at h
    exact .inr (.inr (.inr (decodeBranch_eq_error h)))
  · rw [decode_of_opField_three o hcond hop] at h
    exact .inr (.inr (.inl (Except.error.inj h).symm))

end

/-! ### Words that are reserved -/

section
variable (o : JBeqOverlap) {w : InstrWord}

/-- A word of class op = 00 is refused where the column of the opcode map its I selects refuses it: NOP and BX are the words of opcodes
0000 and 1001. -/
theorem decode_reserved_of_class_zero (hcond : condField w = 0b1110#4) (hop : opField w = 0b00#2)
    (hnop : opcodeField w ≠ 0b0000#4) (hbx : w.extractLsb' 4 28 ≠ 0xE12FFF1#28)
    (hdpi : iField w = 1#1 → decodeDpi w = .error .reservedEncoding)
    (hdpr : iField w = 0#1 → decodeDpr w = .error .reservedEncoding) : decode o w = .error .reservedEncoding := by
  rcases BitVec.eq_zero_or_eq_one (iField w) with hi | hi
  · have hnop' : w ≠ 0xE0000000#32 := fun h => hnop (h ▸ rfl)
    rw [decode_of_iField_zero o hcond hop hi hnop' hbx, hdpr hi]
  · rw [decode_of_iField_one o hcond hop hi, hdpi hi]

theorem bx_of_mask (h : w.extractLsb' 4 28 = 0xE12FFF1#28) : w &&& 0xFFFFFFF0#32 = 0xE12FFF10#32 := by
  rw [← encode_bx_rm h]
  exact Laws.MatchesTable.bx _

theorem not_bx_of_opcodeField_ne (h : opcodeField w ≠ 0b1001#4) : w.extractLsb' 4 28 ≠ 0xE12FFF1#28 :=
  fun hbx => h (opcodeField_of_bx hbx)

end

/-- Settles O32: no sub-decoder has this reason. -/
theorem condNotAlwaysIsRefused : Obligations.CondNotAlwaysIsRefused := by
  unfold Obligations.CondNotAlwaysIsRefused
  refine fun o w => ⟨fun h => ?_, decode_of_condField_ne o⟩
  rcases decode_eq_error h with ⟨-, hcond⟩ | ⟨he, -⟩ | he | he
  · exact hcond
  all_goals cases he

/-- Settles O33: the opcodes have no row in either column. -/
theorem unlistedOpcodesAreReserved : Obligations.UnlistedOpcodesAreReserved := by
  unfold Obligations.UnlistedOpcodesAreReserved
  intro o w hcond hop h
  have hbx : w.extractLsb' 4 28 ≠ 0xE12FFF1#28 := by
    rcases h with h | ⟨-, h⟩
    · refine not_bx_of_opcodeField_ne fun hopcode => ?_
      rw [show w.extractLsb' 21 4 = 0b1001#4 from hopcode] at h
      exact absurd h (by decide)
    · exact fun hbx => h (bx_of_mask hbx)
  have hopcode : opcodeField w ∈ [0b0011#4, 0b0101#4, 0b1110#4, 0b1111#4, 0b1001#4] := by
    rcases h with h | ⟨h, -⟩
    · exact List.mem_append_left [0b1001#4] h
    · rw [opcodeField, h]
      decide
  have hmap : opcodeField w ≠ 0b0000#4 ∧ decodeDpi w = .error .reservedEncoding ∧ decodeDpr w = .error .reservedEncoding := by
    rw [decodeDpi, decodeDpr]
    generalize opcodeField w = op at hopcode
    simp only [List.mem_cons, List.not_mem_nil, or_false] at hopcode
    rcases hopcode with rfl | rfl | rfl | rfl | rfl <;> exact ⟨by decide, rfl, rfl⟩
  obtain ⟨hnop, hdpi, hdpr⟩ := hmap
  exact decode_reserved_of_class_zero o hcond hop hnop hbx (fun _ => hdpi) (fun _ => hdpr)

/-- Settles O34: the reason belongs to the two opcodes of column I = 1 alone, and `whenRrr` checks the other forms. -/
theorem unshownFormsOfNewOpcodesAreRefused : Obligations.UnshownFormsOfNewOpcodesAreRefused := by
  unfold Obligations.UnshownFormsOfNewOpcodesAreRefused
  refine fun o w => ⟨⟨fun h => ?_, fun ⟨hcond, hop, hi, hopcode⟩ => ?_⟩, fun hcond hop h => ?_⟩
  · rcases decode_eq_error h with ⟨he, -⟩ | ⟨-, hshape⟩ | he | he
    · cases he
    · exact hshape
    all_goals cases he
  · rw [decode_of_iField_one o hcond hop hi]
    simp only [List.mem_cons, List.not_mem_nil, or_false] at hopcode
    rcases hopcode with hopcode | hopcode <;> rw [decodeDpi, opcodeField, hopcode] <;> rfl
  · rcases h with ⟨hi, hopcode⟩ | ⟨hi, hopcode, hform⟩
    · rw [decode_of_iField_one o hcond hop hi, decodeDpi, opcodeField, hopcode]
      rfl
    · have hrrr : ∀ i, whenRrr w i = .error .reservedEncoding := fun i => if_neg fun ⟨hs, hzero⟩ =>
        hform.elim (fun h => absurd (hs.symm.trans h) (by decide)) fun h => h hzero
      have hmap : opcodeField w ≠ 0b0000#4 ∧ opcodeField w ≠ 0b1001#4 ∧ decodeDpr w = .error .reservedEncoding := by
        simp only [List.mem_cons, List.not_mem_nil, or_false] at hopcode
        rcases hopcode with hopcode | hopcode | hopcode <;> rw [decodeDpr, opcodeField, hopcode] <;>
          exact ⟨by decide, by decide, hrrr _⟩
      obtain ⟨hnop, hbx, hdpr⟩ := hmap
      exact decode_reserved_of_class_zero o hcond hop hnop (not_bx_of_opcodeField_ne hbx)
        (fun hi' => absurd (hi.symm.trans hi') (by decide)) (fun _ => hdpr)

/-- Settles O35: each of the four bits lies in a field that `decodeLoadStore` fixes to its other value. -/
theorem unshownLoadStoreFormsAreReserved : Obligations.UnshownLoadStoreFormsAreReserved := by
  unfold Obligations.UnshownLoadStoreFormsAreReserved
  intro o w hcond hop h
  rw [decode_of_opField_one o hcond hop, decodeLoadStore, if_neg]
  rintro ⟨hip, hbw⟩
  have h25 : w.extractLsb' 25 1 = 0#1 := subfield_eq (lo' := 1) hip (by decide)
  have h24 : w.extractLsb' 24 1 = 1#1 := subfield_eq (lo' := 0) hip (by decide)
  have h22 : w.extractLsb' 22 1 = 0#1 := subfield_eq (lo' := 1) hbw (by decide)
  have h21 : w.extractLsb' 21 1 = 0#1 := subfield_eq (lo' := 0) hbw (by decide)
  rw [h25, h24, h22, h21] at h
  exact absurd h (by decide)

/-- Settles O36: class 11 has no sub-decoder. -/
theorem classElevenIsReserved : Obligations.ClassElevenIsReserved := by
  unfold Obligations.ClassElevenIsReserved
  exact fun o w => decode_of_opField_three o

/-- Settles O37: `whenRnZero` checks both forms. -/
theorem movWithNonZeroRnIsReserved : Obligations.MovWithNonZeroRnIsReserved := by
  unfold Obligations.MovWithNonZeroRnIsReserved
  intro o w hcond hop hopcode hrn
  have hmov : ∀ i, whenRnZero w i = .error .reservedEncoding := fun i => if_neg hrn
  refine decode_reserved_of_class_zero o hcond hop ?_ (not_bx_of_opcodeField_ne ?_) (fun _ => ?_) fun _ => ?_
  · rw [opcodeField, hopcode]; decide
  · rw [opcodeField, hopcode]; decide
  · rw [decodeDpi, opcodeField, hopcode]; exact hmov _
  · rw [decodeDpr, opcodeField, hopcode]; exact hmov _

/-! ### The overlap of J and BEQ (R79) -/

theorem overlap_of_mask {w : InstrWord} (h : w &&& 0xFFFFFE00#32 = 0xE8000000#32) : w.extractLsb' 9 23 = 0x740000#23 :=
  field_of_mask h rfl

theorem mask_of_overlap {w : InstrWord} (h : w.extractLsb' 9 23 = 0x740000#23) : w &&& 0xFFFFFE00#32 = 0xE8000000#32 := by
  rw [← encode_j_target9 h]
  exact Laws.MatchesTable.j _

theorem decode_of_overlap (o : JBeqOverlap) {w : InstrWord} (h : w.extractLsb' 9 23 = 0x740000#23) :
    decode o w = decodeOverlap o w := by
  have hcond : condField w = 0b1110#4 := subfield_eq (lo' := 19) h (by decide)
  have hk : w.extractLsb' 24 4 = 0b1000#4 := subfield_eq (lo' := 15) h (by decide)
  have hzero : w.extractLsb' 9 15 = 0#15 := subfield_eq (lo' := 0) h (by decide)
  rw [decode_of_beq_kind o hcond hk, if_pos hzero]

/-- J's word read as BEQ: bits [23:9] are zero. -/
theorem cb16Fields_encode_j (target9 : BitVec 9) : cb16Fields (encode (.j target9)) = ⟨0, 0, target9.setWidth 16⟩ := by
  obtain ⟨-, -, -, hzero, -⟩ := encode_j_fields target9
  have hrn : (encode (.j target9)).extractLsb' 20 4 = 0#4 := subfield_eq (lo' := 11) hzero (by decide)
  have hrm : (encode (.j target9)).extractLsb' 16 4 = 0#4 := subfield_eq (lo' := 7) hzero (by decide)
  have hoff : (encode (.j target9)).extractLsb' 0 16 = target9.setWidth 16 := by
    rw [← BitVec.setWidth_eq_extractLsb' (by decide), encode, setWidth_append_eq_or]
    exact BitVec.zero_or
  rw [cb16Fields, hrn, hrm, hoff]
  rfl

/-- Settles O38: the 512 words go to `decodeOverlap`; the other words of BEQ decode under every setting. -/
theorem overlapSettlesJAndBeq : Obligations.OverlapSettlesJAndBeq := by
  unfold Obligations.OverlapSettlesJAndBeq
  refine ⟨fun target9 => ?_, fun o f h => decode_encode_beq o (.inr ?_)⟩
  · rw [← encode_j_eq_or]
    have hw := overlap_of_mask (Laws.MatchesTable.j target9)
    have hoverlap (o : JBeqOverlap) := decode_of_overlap o hw
    refine ⟨hoverlap .refuse, decode_encode_j target9, ?_⟩
    rw [hoverlap, decodeOverlap, cb16Fields_encode_j]
  · simp only [Cb16Fields.isJWord, Bool.and_eq_false_iff, beq_eq_false_iff_ne, decide_eq_false_iff_not, Nat.not_lt]
    exact or_assoc.mpr h

/-! ### The table -/

/-- One instruction of each row: a row's mask and value do not depend on the fields. -/
def oneOfEachRow : List Instr :=
  [.nop, .bx 0, .jr 0, .addImm ⟨0, 0, 0, 0, 0⟩, .addReg ⟨0, 0, 0, 0, 0⟩, .subImm ⟨0, 0, 0, 0, 0⟩, .subReg ⟨0, 0, 0, 0, 0⟩,
   .andImm ⟨0, 0, 0, 0, 0⟩, .andReg ⟨0, 0, 0, 0, 0⟩, .orrImm ⟨0, 0, 0, 0, 0⟩, .orrReg ⟨0, 0, 0, 0, 0⟩,
   .movImm ⟨0, 0, 0, 0⟩, .movReg ⟨0, 0, 0, 0⟩, .eorImm ⟨0, 0, 0, 0, 0⟩, .eorReg ⟨0, 0, 0, 0, 0⟩,
   .cmpImm ⟨0, 0, 0, 0, 0⟩, .cmpReg ⟨0, 0, 0, 0, 0⟩, .tstImm ⟨0, 0, 0, 0, 0⟩, .tstReg ⟨0, 0, 0, 0, 0⟩,
   .sll ⟨0, 0, 0⟩, .srl ⟨0, 0, 0⟩, .slt ⟨0, 0, 0⟩, .ldr ⟨0, 0, 0, 0⟩, .str ⟨0, 0, 0, 0⟩, .b 0, .bl 0, .bne ⟨0, 0, 0⟩,
   .beq ⟨0, 0, 0⟩, .j 0]

theorem mem_opcodeTable_iff {r : TableRow} : r ∈ opcodeTable ↔ ∃ i : Instr, i.tableRow = r := by
  constructor
  · rw [show opcodeTable = oneOfEachRow.map Instr.tableRow from rfl, List.mem_map]
    exact fun ⟨i, _, hi⟩ => ⟨i, hi⟩
  · rintro ⟨i, rfl⟩
    cases i <;> simp [Instr.tableRow, opcodeTable]

theorem encode_matches_tableRow (i : Instr) : encode i &&& i.tableRow.mask = i.tableRow.value := by
  cases i with
  | nop => exact Laws.MatchesTable.nop
  | bx rm | jr rm => exact Laws.MatchesTable.bxr rm
  | addImm f | subImm f | andImm f | orrImm f | eorImm f | cmpImm f | tstImm f => exact Laws.MatchesTable.dpi _ f
  | addReg f | subReg f | andReg f | orrReg f | eorReg f | cmpReg f | tstReg f => exact Laws.MatchesTable.dpr _ f
  | movImm f => exact Laws.MatchesTable.movImm f
  | movReg f => exact Laws.MatchesTable.movReg f
  | sll f | srl f | slt f => exact Laws.MatchesTable.rrr _ f
  | ldr f | str f => exact Laws.MatchesTable.lsi _ f
  | b off24 | bl off24 => exact Laws.MatchesTable.br24 _ off24
  | bne f | beq f => exact Laws.MatchesTable.cb16 _ f
  | j target9 => exact Laws.MatchesTable.j target9

section
variable (o : JBeqOverlap) {w : InstrWord} {i : Instr}

theorem exists_decode_of_dpi (hclass : w.extractLsb' 25 7 = 0b1110001#7) (h : decodeDpi w = .ok i) : ∃ i, decode o w = .ok i :=
  ⟨i, (decode_of_iField_one o (subfield_eq (lo' := 3) hclass (by decide)) (subfield_eq (lo' := 1) hclass (by decide))
    (subfield_eq (lo' := 0) hclass (by decide))).trans h⟩

/-- A word of class op = 00 with I = 0 that is NOP or BX is accepted too. -/
theorem exists_decode_of_dpr (hclass : w.extractLsb' 25 7 = 0b1110000#7) (h : decodeDpr w = .ok i) : ∃ i, decode o w = .ok i := by
  by_cases hnop : w = 0xE0000000#32
  · exact ⟨_, hnop ▸ decode_nop o⟩
  by_cases hbx : w.extractLsb' 4 28 = 0xE12FFF1#28
  · exact ⟨_, decode_of_bx o hbx⟩
  exact ⟨i, (decode_of_iField_zero o (subfield_eq (lo' := 3) hclass (by decide)) (subfield_eq (lo' := 1) hclass (by decide))
    (subfield_eq (lo' := 0) hclass (by decide)) hnop hbx).trans h⟩

theorem exists_decodeOverlap (ho : o ≠ .refuse) (w : InstrWord) : ∃ i, decodeOverlap o w = .ok i := by
  cases o with
  | refuse => exact absurd rfl ho
  | j | beq => exact ⟨_, rfl⟩

/-- A row's mask keeps the fields that the decoder looks at on the way to the row's instruction. -/
theorem exists_decode_of_tableRow (hrow : w &&& i.tableRow.mask = i.tableRow.value)
    (hoverlap : o = .refuse → w.extractLsb' 9 23 ≠ 0x740000#23) : ∃ i, decode o w = .ok i := by
  cases i <;> dsimp only [Instr.tableRow] at hrow
  case nop => exact ⟨_, (BitVec.and_allOnes.symm.trans hrow : w = 0xE0000000#32) ▸ decode_nop o⟩
  case bx | jr => exact ⟨_, decode_of_bx o (field_of_mask hrow (by decide))⟩
  case addImm | subImm | andImm | orrImm | eorImm | cmpImm | tstImm =>
    have hopcode := field_of_mask (lo := 21) (len := 4) hrow (by decide)
    exact exists_decode_of_dpi o (field_of_mask hrow (by decide)) (by rw [decodeDpi, opcodeField, hopcode]; rfl)
  case addReg | subReg | andReg | orrReg | eorReg | cmpReg | tstReg =>
    have hopcode := field_of_mask (lo := 21) (len := 4) hrow (by decide)
    exact exists_decode_of_dpr o (field_of_mask hrow (by decide)) (by rw [decodeDpr, opcodeField, hopcode]; rfl)
  case movImm =>
    have hopcode := field_of_mask (lo := 21) (len := 4) hrow (by decide)
    have hrn : w.extractLsb' 16 4 = 0#4 := field_of_mask hrow (by decide)
    exact exists_decode_of_dpi o (field_of_mask hrow (by decide)) (by rw [decodeDpi, opcodeField, hopcode]; exact if_pos hrn)
  case movReg =>
    have hopcode := field_of_mask (lo := 21) (len := 4) hrow (by decide)
    have hrn : w.extractLsb' 16 4 = 0#4 := field_of_mask hrow (by decide)
    exact exists_decode_of_dpr o (field_of_mask hrow (by decide)) (by rw [decodeDpr, opcodeField, hopcode]; exact if_pos hrn)
  case sll | srl | slt =>
    have hopcode := field_of_mask (lo := 21) (len := 4) hrow (by decide)
    have hs : w.extractLsb' 20 1 = 0#1 := field_of_mask hrow (by decide)
    have hzero : w.extractLsb' 4 8 = 0#8 := field_of_mask hrow (by decide)
    exact exists_decode_of_dpr o (field_of_mask hrow (by decide))
      (by rw [decodeDpr, opcodeField, hopcode]; exact if_pos ⟨hs, hzero⟩)
  case ldr | str =>
    have hl := field_of_mask (lo := 20) (len := 1) hrow (by decide)
    rw [decode_of_opField_one o (field_of_mask hrow (by decide)) (field_of_mask hrow (by decide)), decodeLoadStore,
      if_pos ⟨field_of_mask hrow (by decide), field_of_mask hrow (by decide)⟩, hl]
    exact ⟨_, rfl⟩
  case b | bl | bne =>
    have hk := field_of_mask (lo := 24) (len := 4) hrow (by decide)
    obtain ⟨hdecode, hkind⟩ := decode_of_class_two o (field_of_mask hrow (by decide)) hk (by decide)
    exact ⟨_, hdecode.trans (by rw [decodeBranch, hkind]; rfl)⟩
  case beq =>
    have hcond : condField w = 0b1110#4 := field_of_mask hrow (by decide)
    have hk : w.extractLsb' 24 4 = 0b1000#4 := field_of_mask hrow (by decide)
    rw [decode_of_beq_kind o hcond hk]
    split
    · next hzero => exact exists_decodeOverlap o (fun ho => hoverlap ho (overlap_high_bits hcond hk hzero)) w
    · exact ⟨_, rfl⟩
  case j =>
    have hw := overlap_of_mask hrow
    rw [decode_of_overlap o hw]
    exact exists_decodeOverlap o (fun ho => hoverlap ho hw) w

end

/-- Settles O31: an accepted word is the word of an instruction of some row, and a word of a row has the fields that lead the decoder to
it. -/
theorem decoderAcceptsExactlyTheTable : Obligations.DecoderAcceptsExactlyTheTable := by
  unfold Obligations.DecoderAcceptsExactlyTheTable
  refine fun o w => ⟨fun ⟨i, h⟩ => ⟨?_, ?_⟩, fun ⟨⟨r, hr, hrow⟩, hoverlap⟩ => ?_⟩
  · obtain ⟨hw, -, -⟩ := encodeOfDecodeIsIdentity o w i h
    exact ⟨i.tableRow, mem_opcodeTable_iff.mpr ⟨i, rfl⟩, hw ▸ encode_matches_tableRow i⟩
  · rintro ⟨rfl, hmask⟩
    cases decode_of_overlap .refuse (overlap_of_mask hmask) ▸ h
  · obtain ⟨i, rfl⟩ := mem_opcodeTable_iff.mp hr
    exact exists_decode_of_tableRow o hrow fun ho hw => hoverlap ⟨ho, mask_of_overlap hw⟩

/-! ### Fixed words -/

/-- Settles O40: closed words, evaluated. -/
theorem canonicalWordsAreTheTables : Obligations.CanonicalWordsAreTheTables := by
  unfold Obligations.CanonicalWordsAreTheTables
  refine ⟨rfl, rfl, rfl, rfl, rfl, rfl, rfl, rfl, rfl, rfl, rfl, rfl, rfl, rfl, rfl, rfl, rfl, rfl, rfl, rfl, rfl, rfl, rfl, rfl,
    rfl, rfl, rfl, rfl, rfl, rfl, rfl, fun o => ?_⟩
  exact ⟨rfl, rfl, rfl, rfl, rfl, rfl, rfl, rfl, rfl, rfl, rfl, rfl⟩

/-- Settles O41: closed words, evaluated. -/
theorem exampleWordsDecode : Obligations.ExampleWordsDecode := by
  unfold Obligations.ExampleWordsDecode
  decide

end Sys2Proof
end

section
/-! What an instruction does once its registers are admitted, in five shapes, each with the values it computed from the registers; and from
that when an instruction completes, why it stops, and what it leaves unchanged. -/

namespace Sys2Proof.Machine

/-! ### The effect of an instruction -/

/-- What an instruction does after the check for register 15, as computed from the registers of a machine whose words are `w` bits wide. -/
inductive Effect (w : Nat) where
  /-- x[rd] <- v; pc <- A + 1. -/
  | write (rd : RegNum) (v : BitVec w)
  /-- pc <- target. -/
  | goto (target : WordAddr)
  /-- BL (R142). -/
  | link (off24 : BitVec 24)
  /-- The load of the word at `ea` to x[rd] (R132). -/
  | load (rd : RegNum) (ea : BitVec w)
  /-- The store of `v` to the word at `ea` (R133). -/
  | store (ea v : BitVec w)

/-- The effect's outcome in a state. -/
def Effect.outcome (s : State) : Effect s.cfg.xlen → Result
  | .write rd v => .next (s.writeBack rd v)
  | .goto target => .next (s.setPc target)
  | .link off24 => execBl off24 s
  | .load rd ea => s.loadWord ea fun v => .next (s.writeBack rd v)
  | .store ea v => s.storeWord ea v fun t => .next t.advance

/-- The effect of each instruction. -/
def effectOf (i : Instr) (s : State) : Effect s.cfg.xlen :=
  match i with
  | .nop => .goto (s.pc + 1)
  | .bx rm => .goto (s.registerTarget rm)
  | .jr rm => .goto (s.registerTarget rm)
  | .addImm f => .write f.rd (s.reg f.rn + s.immOperand f.imm8)
  | .addReg f => .write f.rd (s.reg f.rn + s.reg f.rm)
  | .subImm f => .write f.rd (s.reg f.rn - s.immOperand f.imm8)
  | .subReg f => .write f.rd (s.reg f.rn - s.reg f.rm)
  | .andImm f => .write f.rd (s.reg f.rn &&& s.immOperand f.imm8)
  | .andReg f => .write f.rd (s.reg f.rn &&& s.reg f.rm)
  | .orrImm f => .write f.rd (s.reg f.rn ||| s.immOperand f.imm8)
  | .orrReg f => .write f.rd (s.reg f.rn ||| s.reg f.rm)
  | .movImm f => .write f.rd (s.immOperand f.imm8)
  | .movReg f => .write f.rd (s.reg f.rm)
  | .eorImm f => .write f.rd (s.reg f.rn ^^^ s.immOperand f.imm8)
  | .eorReg f => .write f.rd (s.reg f.rn ^^^ s.reg f.rm)
  | .cmpImm _ => .goto (s.pc + 1)
  | .cmpReg _ => .goto (s.pc + 1)
  | .tstImm _ => .goto (s.pc + 1)
  | .tstReg _ => .goto (s.pc + 1)
  | .sll f => .write f.rd (s.reg f.rn <<< s.shiftAmount f.rm)
  | .srl f => .write f.rd (s.reg f.rn >>> s.shiftAmount f.rm)
  | .slt f => .write f.rd (if s.signedLess f.rn f.rm then 1#s.cfg.xlen else 0#s.cfg.xlen)
  | .ldr f => .load f.rd (s.effAddr f)
  | .str f => .store (s.effAddr f) (s.reg f.rd)
  | .b off24 => .goto (branchTarget24 s.pc off24)
  | .bl off24 => .link off24
  | .bne f => .goto (if !s.regsEqual f.rn f.rm then branchTarget16 s.pc f.off16 else s.pc + 1)
  | .beq f => .goto (if s.regsEqual f.rn f.rm then branchTarget16 s.pc f.off16 else s.pc + 1)
  | .j target9 => .goto target9

theorem branchOn_eq_unlessR15 (taken : Bool) (f : Cb16Fields) (s : State) :
    branchOn taken f s = unlessR15 [f.rn, f.rm] (.next (s.setPc (if taken then branchTarget16 s.pc f.off16 else s.pc + 1))) := by
  cases taken <;> rfl

/-- Every instruction checks the registers its rule uses for register 15, and then has its effect. -/
theorem exec_eq_unlessR15 (i : Instr) (s : State) : exec i s = unlessR15 (i.reads ++ i.writes) ((effectOf i s).outcome s) := by
  cases i
  case beq f => exact branchOn_eq_unlessR15 (s.regsEqual f.rn f.rm) f s
  case bne f => exact branchOn_eq_unlessR15 (!s.regsEqual f.rn f.rm) f s
  all_goals rfl

/-- What an effect says of the instruction it is the effect of. -/
def Effect.Fits (i : Instr) (s : State) : Effect s.cfg.xlen → Prop
  | .write rd _ => i.writes = [rd] ∧ i.isControlTransfer = false
  | .goto target => i.writes = [] ∧ (i.isControlTransfer = false → target = s.pc + 1)
  | .link off24 => i = .bl off24
  | .load rd ea => ∃ f, i = .ldr f ∧ rd = f.rd ∧ ea = s.effAddr f
  | .store ea v => ∃ f, i = .str f ∧ ea = s.effAddr f ∧ v = s.reg f.rd

theorem effectOf_fits (i : Instr) (s : State) : (effectOf i s).Fits i s := by
  cases i <;> simp [effectOf, Effect.Fits, Instr.writes, Instr.isControlTransfer]

/-! ### Outcomes of the shared operations -/

section
variable {s t : State}

theorem exec_bl_eq_next {off24 : BitVec 24} :
    exec (.bl off24) s = .next t ↔
      s.cfg.blLink = .r14Next ∧
        t = (s.setReg 14#4 ((s.pc + 1).setWidth s.cfg.xlen)).setPc (branchTarget24 s.pc off24) := by
  show execBl off24 s = _ ↔ _
  cases hlink : s.cfg.blLink <;> simp [execBl, hlink, eq_comm]

theorem exec_bl_of_refuse {off24 : BitVec 24} (h : s.cfg.blLink = .refuse) :
    exec (.bl off24) s = .refused .blLinkNotSpecified := by
  show execBl off24 s = _
  rw [execBl, h]

theorem execBl_ne_fault {off24 : BitVec 24} {e : Fault} : execBl off24 s ≠ .fault e := by
  unfold execBl
  split <;> simp

theorem execBl_eq_refused {off24 : BitVec 24} {e : Refusal} :
    execBl off24 s = .refused e ↔ e = .blLinkNotSpecified ∧ s.cfg.blLink = .refuse := by
  cases hlink : s.cfg.blLink <;> simp [execBl, hlink, eq_comm]

/-- Alignment is checked before range (R131). -/
theorem accessRefusal_eq_some {ea : BitVec s.cfg.xlen} {e : Refusal} :
    s.accessRefusal ea = some e ↔
      e = .misalignedAccess ea.toNat ∧ ea.toNat % s.cfg.wordBytes ≠ 0 ∨
        e = .accessOutsideMemory ea.toNat ∧ ea.toNat % s.cfg.wordBytes = 0 ∧ s.cfg.dmemBytes < ea.toNat + s.cfg.wordBytes := by
  unfold State.accessRefusal
  split
  · simp_all [eq_comm]
  · split <;> simp_all [eq_comm]

theorem loadWord_of_accessRefusal {ea : BitVec s.cfg.xlen} {e : Refusal} (h : s.accessRefusal ea = some e)
    (k : BitVec s.cfg.xlen → Result) : s.loadWord ea k = .refused e := by
  rw [State.loadWord, h]

theorem storeWord_of_accessRefusal {ea : BitVec s.cfg.xlen} {e : Refusal} (h : s.accessRefusal ea = some e)
    (v : BitVec s.cfg.xlen) (k : State → Result) : s.storeWord ea v k = .refused e := by
  rw [State.storeWord, h]

theorem loadWord_of_readLE_some {ea : BitVec s.cfg.xlen} {k : BitVec s.cfg.xlen → Result} {v : Nat} (hok : s.accessOk ea.toNat)
    (h : s.dmem.readLE ea.toNat s.cfg.wordBytes = some v) : s.loadWord ea k = k (BitVec.ofNat s.cfg.xlen v) := by
  simp only [State.loadWord, accessRefusal_eq_none.mpr hok, h]

theorem storeWord_of_accessOk {ea v : BitVec s.cfg.xlen} {k : State → Result} (hok : s.accessOk ea.toNat) :
    s.storeWord ea v k = k (s.setDMem (s.dmem.writeLE ea.toNat s.cfg.wordBytes v.toNat)) := by
  simp only [State.storeWord, accessRefusal_eq_none.mpr hok]

/-- A load faults itself only where the word has no value (R44). -/
theorem loadWord_eq_fault {ea : BitVec s.cfg.xlen} {k : BitVec s.cfg.xlen → Result} {e : Fault} (h : s.loadWord ea k = .fault e)
    (hk : ∀ v, k v ≠ .fault e) :
    e = .unwrittenMemory ea.toNat ∧ s.accessOk ea.toNat ∧ s.dmem.readLE ea.toNat s.cfg.wordBytes = none := by
  rw [← accessRefusal_eq_none]
  unfold State.loadWord at h
  split at h
  · cases h
  · split at h
    · exact absurd h (hk _)
    · exact ⟨(Host.Outcome.fault.inj h).symm, ‹_›, ‹_›⟩

theorem loadWord_eq_refused {ea : BitVec s.cfg.xlen} {k : BitVec s.cfg.xlen → Result} {e : Refusal}
    (h : s.loadWord ea k = .refused e) (hk : ∀ v, k v ≠ .refused e) : s.accessRefusal ea = some e := by
  unfold State.loadWord at h
  split at h
  · cases h
    assumption
  · split at h
    · exact absurd h (hk _)
    · cases h

theorem storeWord_ne_fault {ea v : BitVec s.cfg.xlen} {k : State → Result} {e : Fault} (hk : ∀ t, k t ≠ .fault e) :
    s.storeWord ea v k ≠ .fault e := by
  unfold State.storeWord
  split
  · nofun
  · exact hk _

theorem storeWord_eq_refused {ea v : BitVec s.cfg.xlen} {k : State → Result} {e : Refusal} (h : s.storeWord ea v k = .refused e)
    (hk : ∀ t, k t ≠ .refused e) : s.accessRefusal ea = some e := by
  unfold State.storeWord at h
  split at h
  · cases h
    assumption
  · exact absurd h (hk _)

end

/-! ### Completing -/

section
variable {i : Instr} {s t : State}

theorem exec_of_r15 (h : 15#4 ∈ i.reads ++ i.writes) : exec i s = .refused .r15Operand :=
  (exec_eq_unlessR15 i s).trans (unlessR15_of_mem h)

theorem exec_of_not_r15 (h : 15#4 ∉ i.reads ++ i.writes) : exec i s = (effectOf i s).outcome s :=
  (exec_eq_unlessR15 i s).trans (unlessR15_of_not_mem h)

/-- Everything an instruction that completes can have done. -/
theorem exec_eq_next (h : exec i s = .next t) :
    15#4 ∉ i.reads ++ i.writes ∧
      ((∃ rd v, i.writes = [rd] ∧ i.isControlTransfer = false ∧ t = s.writeBack rd v) ∨
        (∃ target, (i.isControlTransfer = false → target = s.pc + 1) ∧ t = s.setPc target) ∨
        (∃ off24, i = .bl off24 ∧ t = (s.setReg 14#4 ((s.pc + 1).setWidth s.cfg.xlen)).setPc (branchTarget24 s.pc off24)) ∨
        ∃ f, i = .str f ∧ s.accessOk (s.effAddr f).toNat ∧
          t = (s.setDMem (s.dmem.writeLE (s.effAddr f).toNat s.cfg.wordBytes (s.regVal f.rd))).advance) := by
  rw [exec_eq_unlessR15, unlessR15_eq_next] at h
  obtain ⟨h15, h⟩ := h
  refine ⟨h15, ?_⟩
  have hfit := effectOf_fits i s
  generalize effectOf i s = e at h hfit
  cases e with
  | write rd v => exact .inl ⟨rd, v, hfit.1, hfit.2, (Host.Outcome.next.inj h).symm⟩
  | goto target => exact .inr (.inl ⟨target, hfit.2, (Host.Outcome.next.inj h).symm⟩)
  | link off24 => exact .inr (.inr (.inl ⟨off24, hfit, (exec_bl_eq_next.mp h).2⟩))
  | load rd ea =>
    obtain ⟨f, rfl, rfl, rfl⟩ := hfit
    rw [Effect.outcome, loadWord_eq_next] at h
    obtain ⟨-, v, -, hv⟩ := h
    exact .inl ⟨f.rd, _, rfl, rfl, (Host.Outcome.next.inj hv).symm⟩
  | store ea v =>
    obtain ⟨f, rfl, rfl, rfl⟩ := hfit
    rw [Effect.outcome, storeWord_eq_next] at h
    obtain ⟨hok, hv⟩ := h
    exact .inr (.inr (.inr ⟨f, rfl, hok, (Host.Outcome.next.inj hv).symm⟩))

/-- The condition of `Completes` on what comes after the register check. -/
def Effect.Completes (s : State) : Effect s.cfg.xlen → Prop
  | .write _ _ => True
  | .goto _ => True
  | .link _ => s.cfg.blLink = .r14Next
  | .load _ ea => s.accessOk ea.toNat ∧ ∃ v, s.dmem.readLE ea.toNat s.cfg.wordBytes = some v
  | .store ea _ => s.accessOk ea.toNat

theorem completes_iff (i : Instr) (s : State) : Completes i s ↔ 15#4 ∉ i.reads ++ i.writes ∧ (effectOf i s).Completes s := by
  cases i <;> rfl

theorem outcome_eq_next_iff (e : Effect s.cfg.xlen) : (∃ t, e.outcome s = .next t) ↔ e.Completes s := by
  cases e with
  | write rd v => exact ⟨fun _ => trivial, fun _ => ⟨_, rfl⟩⟩
  | goto target => exact ⟨fun _ => trivial, fun _ => ⟨_, rfl⟩⟩
  | link off24 => exact ⟨fun ⟨_, h⟩ => (exec_bl_eq_next.mp h).1, fun h => ⟨_, exec_bl_eq_next.mpr ⟨h, rfl⟩⟩⟩
  | load rd ea =>
    simp only [Effect.outcome, loadWord_eq_next]
    exact ⟨fun ⟨_, hok, v, hv, _⟩ => ⟨hok, v, hv⟩, fun ⟨hok, v, hv⟩ => ⟨_, hok, v, hv, rfl⟩⟩
  | store ea v =>
    simp only [Effect.outcome, storeWord_eq_next]
    exact ⟨fun ⟨_, hok, _⟩ => hok, fun hok => ⟨_, hok, rfl⟩⟩

end

/-- Settles O44: the register check comes before the effect. -/
theorem registerFifteenIsRefused : Obligations.RegisterFifteenIsRefused := by
  unfold Obligations.RegisterFifteenIsRefused
  exact fun i s => exec_of_r15

/-- Settles O46: the register check, and then the condition of the effect. -/
theorem instructionsCompleteExactlyWhen : Obligations.InstructionsCompleteExactlyWhen := by
  unfold Obligations.InstructionsCompleteExactlyWhen
  intro i s
  rw [completes_iff, ← outcome_eq_next_iff, exec_eq_unlessR15]
  simp only [unlessR15_eq_next, exists_and_left]

/-! ### Stopping -/

/-- Settles O45: the stops of the register check and of each effect. -/
theorem stopsAreTheSpecsClosedList : Obligations.StopsAreTheSpecsClosedList := by
  unfold Obligations.StopsAreTheSpecsClosedList
  intro i s
  rw [exec_eq_unlessR15]
  have hfit := effectOf_fits i s
  generalize effectOf i s = effect at hfit
  constructor
  · intro e h
    rw [unlessR15_eq_fault] at h
    obtain ⟨h15, h⟩ := h
    cases effect with
    | write | goto => cases h
    | link => exact absurd h execBl_ne_fault
    | load rd ea =>
      obtain ⟨f, rfl, rfl, rfl⟩ := hfit
      rw [Effect.outcome] at h
      obtain ⟨he, hok, hread⟩ := loadWord_eq_fault h fun v => nofun
      exact ⟨f, rfl, he, h15, hok, hread⟩
    | store ea v =>
      rw [Effect.outcome] at h
      exact absurd h (storeWord_ne_fault fun t => nofun)
  · intro e h
    rw [unlessR15_eq_refused] at h
    rcases h with ⟨h15, he⟩ | ⟨h15, h⟩
    · exact .inl ⟨he, h15⟩
    cases effect with
    | write | goto => cases h
    | link off24 => exact .inr (.inl ⟨off24, hfit, execBl_eq_refused.mp h⟩)
    | load rd ea =>
      obtain ⟨f, rfl, rfl, rfl⟩ := hfit
      rw [Effect.outcome] at h
      have hrefusal := loadWord_eq_refused h fun v => nofun
      exact .inr (.inr ⟨f, .inl rfl, h15, accessRefusal_eq_some.mp hrefusal⟩)
    | store ea v =>
      obtain ⟨f, rfl, rfl, rfl⟩ := hfit
      rw [Effect.outcome] at h
      have hrefusal := storeWord_eq_refused h fun t => nofun
      exact .inr (.inr ⟨f, .inr rfl, h15, accessRefusal_eq_some.mp hrefusal⟩)

/-! ### Frames -/

/-- Settles O48: an instruction that completes wrote one register, or set the pc alone, or linked, or stored. -/
theorem instructionsChangeOnlyTheirDestinations : Obligations.InstructionsChangeOnlyTheirDestinations := by
  unfold Obligations.InstructionsChangeOnlyTheirDestinations
  intro i s t h
  obtain ⟨-, ⟨rd, v, hwrites, -, rfl⟩ | ⟨target, -, rfl⟩ | ⟨off24, rfl, rfl⟩ | ⟨f, rfl, -, rfl⟩⟩ := exec_eq_next h
  · obtain ⟨hcfg, himem, hregs, hmem⟩ := onlyRegsChange_writeBack s rd v
    exact ⟨hcfg, himem, fun r hr => hregs r (hwrites ▸ hr), fun a _ => hmem a⟩
  · exact ⟨rfl, rfl, fun _ _ => rfl, fun _ _ => rfl⟩
  · refine ⟨rfl, rfl, fun r hr => ?_, fun _ _ => rfl⟩
    rw [regVal_setPc, regVal_setReg, if_neg (by simpa [Instr.writes] using hr)]
  · exact ⟨rfl, rfl, fun _ _ => rfl, fun a ha => Memory.read_writeLE_outside s.dmem (ha f rfl)⟩

theorem toNat_wordAddr_add_one (a : WordAddr) : (a + 1).toNat = (a.toNat + 1) % 512 := BitVec.toNat_add a 1

/-- Settles O47: of the ways to complete, only a control transfer goes elsewhere than to A + 1. -/
theorem otherInstructionsAdvancePcByOne : Obligations.OtherInstructionsAdvancePcByOne := by
  unfold Obligations.OtherInstructionsAdvancePcByOne
  intro i s t hct h
  rw [← toNat_wordAddr_add_one]
  obtain ⟨-, ⟨rd, v, -, -, rfl⟩ | ⟨target, htarget, rfl⟩ | ⟨off24, rfl, rfl⟩ | ⟨f, rfl, -, rfl⟩⟩ := exec_eq_next h
  · rfl
  · rw [setPc_pc, htarget hct]
  · cases hct
  · rfl

end Sys2Proof.Machine
end

section
/-! Two states that differ in registers an instruction does not read (R37). -/

namespace Sys2Proof.Machine

section
variable {s : State} {regs : Vector (BitVec s.cfg.xlen) 16}

/-- The machine with other registers. -/
def State.withRegs (s : State) (regs : Vector (BitVec s.cfg.xlen) 16) : State := { s with regs := regs }

/-- Every accessor an effect is computed with reads registers through `State.reg`, and the registers it reads are those of `reads`. -/
theorem effectOf_withRegs (i : Instr) (h : ∀ r ∈ i.reads, (s.withRegs regs).regVal r = s.regVal r) :
    effectOf i (s.withRegs regs) = effectOf i s := by
  have hreg : ∀ r ∈ i.reads, (s.withRegs regs).reg r = s.reg r := fun r hr => BitVec.eq_of_toNat_eq (h r hr)
  cases i <;> simp only [Instr.reads, List.mem_cons, List.not_mem_nil, or_false, forall_eq_or_imp, forall_eq] at hreg <;>
    simp only [effectOf, State.registerTarget, State.immOperand, State.effAddr, State.shiftAmount, State.signedLess,
      State.regsEqual, hreg] <;>
    rfl

theorem sameEffect_of_eq {ws : List RegNum} {r r' q q' : Result} (h : r = q) (h' : r' = q') (hsame : SameEffect ws q q') :
    SameEffect ws r r' := h ▸ h' ▸ hsame

theorem regVal_setReg_self (t : State) (r : RegNum) (v : BitVec t.cfg.xlen) : (t.setReg r v).regVal r = v.toNat :=
  (regVal_setReg t r r v).trans (if_pos rfl)

theorem sameEffect_writeBack (rd : RegNum) (v : BitVec s.cfg.xlen) :
    SameEffect [rd] (.next (s.writeBack rd v)) (.next ((s.withRegs regs).writeBack rd v)) := by
  refine ⟨rfl, rfl, fun r hr => ?_⟩
  cases List.mem_singleton.mp hr
  exact (regVal_setReg_self (s.withRegs regs) rd v).trans (regVal_setReg_self s rd v).symm

theorem sameEffect_link (off24 : BitVec 24) : SameEffect [14#4] (execBl off24 s) (execBl off24 (s.withRegs regs)) := by
  cases hlink : s.cfg.blLink with
  | refuse =>
    exact sameEffect_of_eq (exec_bl_of_refuse hlink) (exec_bl_of_refuse (s := s.withRegs regs) hlink) rfl
  | r14Next =>
    refine sameEffect_of_eq (exec_bl_eq_next.mpr ⟨hlink, rfl⟩) (exec_bl_eq_next (s := s.withRegs regs) |>.mpr ⟨hlink, rfl⟩)
      ⟨rfl, rfl, fun r hr => ?_⟩
    cases List.mem_singleton.mp hr
    exact (regVal_setReg_self (s.withRegs regs) 14#4 _).trans (regVal_setReg_self s 14#4 _).symm

theorem sameEffect_load (rd : RegNum) (ea : BitVec s.cfg.xlen) :
    SameEffect [rd] (s.loadWord ea fun v => .next (s.writeBack rd v))
      ((s.withRegs regs).loadWord ea fun v => .next ((s.withRegs regs).writeBack rd v)) := by
  cases hr : s.accessRefusal ea with
  | some e =>
    exact sameEffect_of_eq (loadWord_of_accessRefusal hr _) (loadWord_of_accessRefusal (s := s.withRegs regs) hr _) rfl
  | none =>
    have hok := accessRefusal_eq_none.mp hr
    cases hv : s.dmem.readLE ea.toNat s.cfg.wordBytes with
    | none =>
      exact sameEffect_of_eq (loadWord_of_readLE_none hok hv) (loadWord_of_readLE_none (s := s.withRegs regs) hok hv) rfl
    | some v =>
      exact sameEffect_of_eq (loadWord_of_readLE_some hok hv) (loadWord_of_readLE_some (s := s.withRegs regs) hok hv)
        (sameEffect_writeBack rd _)

theorem sameEffect_store (ea v : BitVec s.cfg.xlen) :
    SameEffect [] (s.storeWord ea v fun t => .next t.advance) ((s.withRegs regs).storeWord ea v fun t => .next t.advance) := by
  cases hr : s.accessRefusal ea with
  | some e =>
    exact sameEffect_of_eq (storeWord_of_accessRefusal hr v _) (storeWord_of_accessRefusal (s := s.withRegs regs) hr v _) rfl
  | none =>
    have hok := accessRefusal_eq_none.mp hr
    exact sameEffect_of_eq (storeWord_of_accessOk hok) (storeWord_of_accessOk (s := s.withRegs regs) hok) ⟨rfl, rfl, nofun⟩

/-- One effect in two states that have all but the registers in common shows the same in both. -/
theorem sameEffect_outcome {i : Instr} {e : Effect s.cfg.xlen} (hfit : e.Fits i s) :
    SameEffect i.writes (e.outcome s) (Effect.outcome (s.withRegs regs) e) := by
  cases e with
  | write rd v => exact hfit.1 ▸ sameEffect_writeBack rd v
  | goto target => exact hfit.1 ▸ ⟨rfl, rfl, nofun⟩
  | link off24 => exact hfit ▸ sameEffect_link off24
  | load rd ea =>
    obtain ⟨f, rfl, rfl, rfl⟩ := hfit
    exact sameEffect_load f.rd _
  | store ea v =>
    obtain ⟨f, rfl, rfl, rfl⟩ := hfit
    exact sameEffect_store _ _

end

/-- Settles O49: the effect is the same, and one effect shows the same in both states. -/
theorem effectDependsOnlyOnRegistersRead : Obligations.EffectDependsOnlyOnRegistersRead := by
  unfold Obligations.EffectDependsOnlyOnRegistersRead
  intro i s regs h
  show SameEffect i.writes (exec i s) (exec i (s.withRegs regs))
  by_cases h15 : 15#4 ∈ i.reads ++ i.writes
  · rw [exec_of_r15 h15, exec_of_r15 h15]
    rfl
  · rw [exec_of_not_r15 h15, exec_of_not_r15 h15, effectOf_withRegs i h]
    exact sameEffect_outcome (effectOf_fits i s)

end Sys2Proof.Machine
end

section
/-! The step, the invariant, runs, and the launch. -/

namespace Sys2Proof.Machine

/-! ### The step -/

theorem step_of_instrAtPc {s : State} {i : Instr} (h : s.instrAtPc = some i) : step s = exec i s := by
  unfold State.instrAtPc at h
  split at h
  · cases h
  · next w hw =>
    split at h
    · next hdecode =>
      cases h
      simp only [step, State.fetch, hw, State.decodeWord, hdecode]
    · cases h

theorem instrAtPc_of_decode {s : State} {w : InstrWord} {i : Instr} (hw : s.imem.read s.pc = some w)
    (hdecode : decode s.cfg.jBeqOverlap w = .ok i) : s.instrAtPc = some i := by
  simp only [State.instrAtPc, hw, hdecode]

/-- A step that completes is an instruction that completes. -/
theorem exists_exec_of_step {s t : State} (h : step s = .next t) : ∃ i, exec i s = .next t := by
  obtain ⟨i, -, hexec⟩ := step_eq_next_iff_instrAtPc.mp h
  exact ⟨i, hexec⟩

/-- Settles O42: `fetch` and `decodeWord` only hand on or refuse. -/
theorem stepRunsDecodedInstruction : Obligations.StepRunsDecodedInstruction := by
  unfold Obligations.StepRunsDecodedInstruction
  refine fun s => ⟨fun w i hw hdecode => step_of_instrAtPc (instrAtPc_of_decode hw hdecode), fun w e hw hdecode => ?_,
    fun hw => ?_⟩
  · simp only [step, State.fetch, hw, State.decodeWord, hdecode]
  · simp only [step, State.fetch, hw]

/-- The loaded word is the one given: all 32 bits are kept. -/
theorem withFetchWord_eq (s : State) (w : InstrWord) :
    s.withFetchWord 32 w.toNat = { s with imem := s.imem.load s.pc w } := by
  rw [State.withFetchWord, Nat.mod_eq_of_lt w.isLt, BitVec.ofNat_toNat, BitVec.setWidth_eq]

/-- Settles O43: only the program changes, and it reads back the word at the pc. -/
theorem loadedWordRunsNext : Obligations.LoadedWordRunsNext := by
  unfold Obligations.LoadedWordRunsNext
  intro s t w ht
  rw [withFetchWord_eq] at ht
  subst ht
  have hread (a : WordAddr) := Program.read_load s.imem s.pc a w
  exact ⟨rfl, rfl, fun _ => rfl, fun _ => rfl, hread,
    fun i hdecode => step_of_instrAtPc (instrAtPc_of_decode ((hread s.pc).trans (if_pos rfl)) hdecode)⟩

/-! ### The invariant -/

/-- A store that passes its checks stays in 0 .. DMEM_BYTES - 1 (R46). -/
theorem inv_of_store {s : State} {ea : Nat} (h : s.Inv) (hok : s.accessOk ea) (v : Nat) :
    (s.setDMem (s.dmem.writeLE ea s.cfg.wordBytes v)).Inv := by
  obtain ⟨hvalid, hwf, hbound, himem, hwords⟩ := h
  refine ⟨hvalid, Memory.wf_writeLE hwf ea _ v, fun c hc => ?_, himem, hwords⟩
  rcases Memory.mem_writeLE hc with hc | ⟨-, hlt⟩
  · exact hbound c hc
  · exact Nat.lt_of_lt_of_le hlt hok.2

/-- Settles O50: the invariant speaks of nothing that a step changes but data memory, which only a store changes. -/
theorem stepKeepsInvariant : Obligations.StepKeepsInvariant := by
  unfold Obligations.StepKeepsInvariant
  intro s t hinv h
  obtain ⟨i, hexec⟩ := exists_exec_of_step h
  obtain ⟨-, ⟨rd, v, -, -, rfl⟩ | ⟨target, -, rfl⟩ | ⟨off24, -, rfl⟩ | ⟨f, -, hok, rfl⟩⟩ := exec_eq_next hexec
  · exact hinv
  · exact hinv
  · exact hinv
  · exact inv_of_store hinv hok _

/-- Settles O51: a closed state, evaluated. -/
theorem invariantHoldsAtReset : Obligations.InvariantHoldsAtReset := by
  unfold Obligations.InvariantHoldsAtReset
  decide

/-! ### Runs -/

/-- What every step leaves unchanged, every run does. -/
theorem eq_of_reaches {α : Type} (part : State → α) (hstep : ∀ s t, step s = .next t → part t = part s) {s t : State}
    (h : Reaches s t) : part t = part s := by
  induction h with
  | refl => rfl
  | tail _ hnext ih => exact (hstep _ _ hnext).trans ih

/-- Settles O52: no instruction changes the program or the configuration. -/
theorem runsNeverChangeTheProgram : Obligations.RunsNeverChangeTheProgram := by
  unfold Obligations.RunsNeverChangeTheProgram
  intro s t h
  have hframe : ∀ s t, step s = .next t → t.cfg = s.cfg ∧ t.imem = s.imem := by
    intro s t hstep
    obtain ⟨i, hexec⟩ := exists_exec_of_step hstep
    obtain ⟨hcfg, himem, -⟩ := instructionsChangeOnlyTheirDestinations i s t hexec
    exact ⟨hcfg, himem⟩
  exact ⟨eq_of_reaches State.imem (fun s t hst => (hframe s t hst).2) h, eq_of_reaches State.cfg (fun s t hst => (hframe s t hst).1) h⟩

/-- Settles O53: an instruction that completes writes no register 15, since it does not use it. -/
theorem runsNeverChangeRegisterFifteen : Obligations.RunsNeverChangeRegisterFifteen := by
  unfold Obligations.RunsNeverChangeRegisterFifteen
  refine fun s t => eq_of_reaches (·.regVal 15#4) fun s t hstep => ?_
  obtain ⟨i, hexec⟩ := exists_exec_of_step hstep
  obtain ⟨h15, -⟩ := exec_eq_next hexec
  obtain ⟨-, -, hregs, -⟩ := instructionsChangeOnlyTheirDestinations i s t hexec
  exact hregs 15#4 fun hw => h15 (List.mem_append_right _ hw)

/-- The target of a B with off24[8:0] = 0x1FE is its own address: 2 + 0x1FE is 512. -/
theorem branchTarget24_self {off24 : BitVec 24} (h : off24.setWidth 9 = 0x1FE#9) (a : WordAddr) : branchTarget24 a off24 = a := by
  rw [branchTarget24, h]
  bv_omega

/-- Settles O56: B and J set the pc to where it is. -/
theorem endedRunsStayPut : Obligations.EndedRunsStayPut := by
  unfold Obligations.EndedRunsStayPut
  intro s h
  unfold State.ended at h
  split at h
  · next off24 hi =>
    rw [step_of_instrAtPc hi]
    show Host.Outcome.next (s.setPc (branchTarget24 s.pc off24)) = _
    rw [branchTarget24_self (beq_iff_eq.mp h)]
    rfl
  · next target9 hi =>
    rw [step_of_instrAtPc hi]
    show Host.Outcome.next (s.setPc target9) = _
    rw [beq_iff_eq.mp h]
    rfl
  · cases h

/-- A run is a chain of steps. -/
theorem reflTransGen_of_reaches {s t : State} (h : Reaches s t) :
    Relation.ReflTransGen (fun s t => step s = .next t) s t := by
  induction h with
  | refl => exact .refl
  | tail _ hnext ih => exact ih.tail hnext

theorem step_rightUnique : Relator.RightUnique fun s t : State => step s = .next t :=
  fun _ _ _ ht hu => Host.Outcome.next.inj (ht.symm.trans hu)

theorem eq_of_ended {t u : State} (hend : t.ended = true)
    (h : Relation.ReflTransGen (fun s t : State => step s = .next t) t u) : u = t := by
  induction h with
  | refl => rfl
  | tail _ hnext ih =>
    subst ih
    exact step_rightUnique hnext (endedRunsStayPut _ hend)

/-- Settles O57: of two runs from one state one goes on from the other's end, and an ended run stays put. -/
theorem finalStateIsUnique : Obligations.FinalStateIsUnique := by
  unfold Obligations.FinalStateIsUnique
  rintro s t u ⟨ht, htend⟩ ⟨hu, huend⟩
  rcases Relation.ReflTransGen.total_of_right_unique step_rightUnique (reflTransGen_of_reaches ht) (reflTransGen_of_reaches hu) with
    h | h
  · exact (eq_of_ended htend h).symm
  · exact eq_of_ended huend h

/-! ### The launch -/

theorem regVal_launch (c : Config) (p : Program) (m : Memory) (initRegs : List (Nat × Nat)) (r : RegNum) :
    (State.launch c p m initRegs).regVal r =
      (if r.toNat = 15 then unwrittenRegister else (lookup initRegs r.toNat).getD unwrittenRegister) % 2 ^ c.xlen := by
  simp only [State.regVal, State.reg, State.launch, Vector.getElem_ofFn, BitVec.toNat_ofNat]

/-- Settles O54: a value below 2^XLEN is placed whole. -/
theorem launchPlacesItsParameters : Obligations.LaunchPlacesItsParameters := by
  unfold Obligations.LaunchPlacesItsParameters
  refine fun c p m initRegs => ⟨rfl, rfl, rfl, rfl, fun r v hr hv hlt => ?_⟩
  have hr' : r.toNat ≠ 15 := fun h => hr (BitVec.eq_of_toNat_eq h)
  rw [regVal_launch, if_neg hr', hv]
  exact Nat.mod_eq_of_lt hlt

/-- Settles O55: InitRegs, the program and data memory are empty at reset. -/
theorem resetStateIsAsDeclared : Obligations.ResetStateIsAsDeclared := by
  unfold Obligations.ResetStateIsAsDeclared
  refine ⟨rfl, rfl, fun _ => rfl, fun _ => rfl, fun r => ?_, rfl⟩
  rw [State.reset, regVal_launch]
  exact (congrArg (· % 2 ^ launchConfig.xlen) (ite_self _)).trans rfl

end Sys2Proof.Machine
end

section
/-! What the data-processing instructions, SRL, and the jumps write, in the numbers of their rules. -/

namespace Sys2Proof.Machine

/-! ### Writing a register -/

/-- An instruction whose meaning is the register check and a write completes with the value it writes. -/
theorem completesWriting_of_exec_eq_unlessR15 {i : Instr} {s : State} {used : List RegNum} {rd : RegNum} {v : BitVec s.cfg.xlen}
    (h : exec i s = unlessR15 used (.next (s.writeBack rd v))) (h15 : 15#4 ∉ used) : CompletesWriting i s rd v.toNat :=
  ⟨_, h.trans (unlessR15_of_not_mem h15), rfl, regVal_setReg_self s rd v, onlyRegsChange_writeBack s rd v⟩

theorem r15_not_mem_three {rn rm rd : RegNum} (hn : rn ≠ 15#4) (hm : rm ≠ 15#4) (hd : rd ≠ 15#4) : 15#4 ∉ [rn, rm, rd] := by
  simp [hn.symm, hm.symm, hd.symm]

theorem r15_not_mem_two {rn rd : RegNum} (hn : rn ≠ 15#4) (hd : rd ≠ 15#4) : 15#4 ∉ [rn, rd] := by
  simp [hn.symm, hd.symm]

/-- A register holds every 8-bit immediate, so extending it to XLEN bits keeps its value (R68). -/
theorem toNat_immOperand {s : State} (hv : s.cfg.Valid) (imm8 : BitVec 8) : (s.immOperand imm8).toNat = imm8.toNat := by
  have hx : 8 ≤ s.cfg.xlen := by have := hv.2; omega
  exact BitVec.toNat_setWidth_of_le hx

/-- Subtraction in the numbers of R105: the second operand is below 2^XLEN, so its two's complement may be added. -/
theorem toNat_sub_eq {w : Nat} (x y : BitVec w) : (x - y).toNat = (x.toNat + 2 ^ w - y.toNat) % 2 ^ w := by
  have := y.isLt
  rw [BitVec.toNat_sub]
  congr 1
  omega

/-- An operation with an immediate and a register form (R100): each completes with the operation on its operands, here as `g` has it on
their values. -/
theorem completesWriting_dpi_and_dpr {s : State} (hv : s.cfg.Valid) {imm : DpiFields → Instr} {reg : DprFields → Instr}
    (op : BitVec s.cfg.xlen → BitVec s.cfg.xlen → BitVec s.cfg.xlen) (g : Nat → Nat → Nat)
    (hop : ∀ x y, (op x y).toNat = g x.toNat y.toNat)
    (himm : ∀ f, exec (imm f) s = dpiResult f s (op (s.reg f.rn) (s.immOperand f.imm8)))
    (hreg : ∀ f, exec (reg f) s = dprResult f s (op (s.reg f.rn) (s.reg f.rm))) :
    (∀ f : DpiFields, f.rn ≠ 15#4 → f.rd ≠ 15#4 → CompletesWriting (imm f) s f.rd (g (s.regVal f.rn) f.imm8.toNat)) ∧
      (∀ f : DprFields, f.rn ≠ 15#4 → f.rm ≠ 15#4 → f.rd ≠ 15#4 →
        CompletesWriting (reg f) s f.rd (g (s.regVal f.rn) (s.regVal f.rm))) := by
  refine ⟨fun f hn hd => ?_, fun f hn hm hd => ?_⟩
  · rw [← toNat_immOperand hv, State.regVal, ← hop]
    exact completesWriting_of_exec_eq_unlessR15 (himm f) (r15_not_mem_two hn hd)
  · rw [State.regVal, State.regVal, ← hop]
    exact completesWriting_of_exec_eq_unlessR15 (hreg f) (r15_not_mem_three hn hm hd)

/-- Settles O1: the sum of words is the sum of their values modulo 2^XLEN. -/
theorem addWritesSumModTwoToXlen : Obligations.AddWritesSumModTwoToXlen := by
  unfold Obligations.AddWritesSumModTwoToXlen
  exact fun s hv => completesWriting_dpi_and_dpr hv (· + ·) (fun x y => (x + y) % 2 ^ s.cfg.xlen) BitVec.toNat_add
    (fun _ => rfl) (fun _ => rfl)

/-- Settles O2: the difference of words, by `toNat_sub_eq`. -/
theorem subWritesDifferenceModTwoToXlen : Obligations.SubWritesDifferenceModTwoToXlen := by
  unfold Obligations.SubWritesDifferenceModTwoToXlen
  exact fun s hv => completesWriting_dpi_and_dpr hv (· - ·) (fun x y => (x + 2 ^ s.cfg.xlen - y) % 2 ^ s.cfg.xlen) toNat_sub_eq
    (fun _ => rfl) (fun _ => rfl)

/-- Settles O3: words and their values have the same bits. -/
theorem andWritesConjunction : Obligations.AndWritesConjunction := by
  unfold Obligations.AndWritesConjunction
  exact fun s hv => completesWriting_dpi_and_dpr hv (· &&& ·) (· &&& ·) BitVec.toNat_and (fun _ => rfl) (fun _ => rfl)

/-- Settles O4: words and their values have the same bits. -/
theorem orrWritesInclusiveOr : Obligations.OrrWritesInclusiveOr := by
  unfold Obligations.OrrWritesInclusiveOr
  exact fun s hv => completesWriting_dpi_and_dpr hv (· ||| ·) (· ||| ·) BitVec.toNat_or (fun _ => rfl) (fun _ => rfl)

/-- Settles O5: words and their values have the same bits. -/
theorem eorWritesExclusiveOr : Obligations.EorWritesExclusiveOr := by
  unfold Obligations.EorWritesExclusiveOr
  exact fun s hv => completesWriting_dpi_and_dpr hv (· ^^^ ·) (· ^^^ ·) BitVec.toNat_xor (fun _ => rfl) (fun _ => rfl)

/-- Settles O6: MOV's register check names neither Rn nor, in the immediate form, Rm. -/
theorem movWritesOperand2 : Obligations.MovWritesOperand2 := by
  unfold Obligations.MovWritesOperand2
  refine fun s hv => ⟨fun f hd => ?_, fun f hm hd => ?_⟩
  · rw [← toNat_immOperand hv]
    exact completesWriting_of_exec_eq_unlessR15 (used := [f.rd]) rfl (by simpa using hd.symm)
  · exact completesWriting_of_exec_eq_unlessR15 (used := [f.rm, f.rd]) rfl (r15_not_mem_two hm hd)

/-- Settles O7: each of the meanings advances the pc and does no more. -/
theorem cmpTstNopOnlyAdvancePc : Obligations.CmpTstNopOnlyAdvancePc := by
  unfold Obligations.CmpTstNopOnlyAdvancePc
  exact fun s =>
    ⟨fun f => ⟨completesAt_of_exec_eq_setPc rfl, completesAt_of_exec_eq_setPc rfl⟩,
      fun f => ⟨completesAt_of_exec_eq_setPc rfl, completesAt_of_exec_eq_setPc rfl⟩, completesAt_of_exec_eq_setPc rfl⟩

/-- Settles O8: no meaning names these fields. -/
theorem ignoredFieldsHaveNoEffect : Obligations.IgnoredFieldsHaveNoEffect := by
  unfold Obligations.IgnoredFieldsHaveNoEffect
  exact fun s sbit rot ign =>
    ⟨fun f => ⟨rfl, rfl, rfl, rfl, rfl, rfl, rfl, rfl⟩, fun f => ⟨rfl, rfl, rfl, rfl, rfl, rfl, rfl, rfl⟩⟩

/-! ### Shifts -/

theorem toNat_reg_ushiftRight (s : State) (rn rm : RegNum) :
    (s.reg rn >>> s.shiftAmount rm).toNat = s.regVal rn / 2 ^ (s.regVal rm % 64) := by
  rw [BitVec.toNat_ushiftRight, Nat.shiftRight_eq_div_pow, shiftAmount_eq_mod]
  rfl

/-- Settles O23: the word by its format; the value written is the shifted register read as a number. -/
theorem srlShiftsRightLogically : Obligations.SrlShiftsRightLogically := by
  unfold Obligations.SrlShiftsRightLogically
  refine fun f => ⟨encodeRrr_eq_or 0b0111#4 f, fun s _ => ⟨fun hn hm hd => ?_, fun h15 => rrrResult_of_r15 h15 s _⟩⟩
  rw [← toNat_reg_ushiftRight]
  exact completesWriting_of_exec_eq_rrrResult rfl hn hm hd

/-- Settles O24: to the left the product is a multiple of 2^XLEN, to the right the register is below the divisor. -/
theorem shiftByWidthOrMoreGivesZero : Obligations.ShiftByWidthOrMoreGivesZero := by
  unfold Obligations.ShiftByWidthOrMoreGivesZero
  intro s f hv hn hm hd hsh
  have hdvd : 2 ^ s.cfg.xlen ∣ 2 ^ (s.regVal f.rm % 64) := Nat.pow_dvd_pow 2 hsh
  have hleft := ((sllShiftsLeftBySixBitAmount f).2 s hv).1 hn hm hd
  have hright := ((srlShiftsRightLogically f).2 s hv).1 hn hm hd
  rw [Nat.mod_eq_zero_of_dvd (hdvd.mul_left _)] at hleft
  rw [Nat.div_eq_of_lt ((regVal_lt s f.rn).trans_le (Nat.le_of_dvd (Nat.two_pow_pos _) hdvd))] at hright
  exact ⟨hleft, hright⟩

/-! ### Jumps to a register -/

theorem registerTarget_eq_ofNat (s : State) (rm : RegNum) : s.registerTarget rm = BitVec.ofNat 9 (s.regVal rm % 512) := by
  apply BitVec.eq_of_toNat_eq
  simp [State.registerTarget, State.regVal]

theorem completesAt_of_exec_eq_jumpToRegister {i : Instr} {s : State} {rm : RegNum} (h : exec i s = jumpToRegister rm s)
    (hm : rm ≠ 15#4) : CompletesAt i s (BitVec.ofNat 9 (s.regVal rm % 512)) := by
  rw [← registerTarget_eq_ofNat]
  exact completesAt_of_exec_eq_setPc (h.trans (jumpToRegister_eq_next.mpr ⟨by simpa using hm.symm, rfl⟩))

/-- Settles O17: BX and JR have one meaning. -/
theorem registerJumpsUseLowNineBits : Obligations.RegisterJumpsUseLowNineBits := by
  unfold Obligations.RegisterJumpsUseLowNineBits
  exact fun s rm hm => ⟨completesAt_of_exec_eq_jumpToRegister rfl hm, completesAt_of_exec_eq_jumpToRegister rfl hm⟩

/-- R73: all of BX's word above Rm is fixed. -/
theorem encode_bx_eq_or (rm : RegNum) : encode (.bx rm) = 0xE12FFF10#32 ||| rm.setWidth 32 := by
  rw [encode, ← BitVec.setWidth_eq (0xE#4 ++ 0x12FFF1#24 ++ rm), setWidth_append_eq_or]
  rfl

/-- Settles O18: JR and BX have one word and one meaning. -/
theorem jrIsIdenticalToBx : Obligations.JrIsIdenticalToBx := by
  unfold Obligations.JrIsIdenticalToBx
  exact fun rm => ⟨encode_bx_eq_or rm, rfl, fun o => decode_encode_bx o rm,
    fun s => ⟨rfl, completesAt_of_exec_eq_jumpToRegister rfl⟩⟩

/-! ### BL and the return -/

/-- What BL leaves in register 14: a register has room for a word address (R142). -/
theorem regVal_link {s t : State} {off24 : BitVec 24} (hv : s.cfg.Valid) (h : exec (.bl off24) s = .next t) :
    t.regVal 14#4 = (s.pc.toNat + 1) % 512 := by
  have hx : 9 ≤ s.cfg.xlen := by have := hv.2; omega
  rw [(exec_bl_eq_next.mp h).2, regVal_setPc, regVal_setReg_self, BitVec.toNat_setWidth_of_le hx, toNat_wordAddr_add_one]

/-- Settles O16: the word by its format; the frame is that of every instruction. -/
theorem branchLinkWritesReturnAddress : Obligations.BranchLinkWritesReturnAddress := by
  unfold Obligations.BranchLinkWritesReturnAddress
  refine fun off24 => ⟨br24_eq_or 0b1011#4 off24, fun s hv => ⟨fun hlink => ?_, exec_bl_of_refuse⟩⟩
  have h := (exec_bl_eq_next (off24 := off24)).mpr ⟨hlink, rfl⟩
  obtain ⟨hcfg, himem, hregs, hmem⟩ := instructionsChangeOnlyTheirDestinations _ _ _ h
  exact ⟨_, h, branchTarget24_eq_ofNat s.pc off24, regVal_link hv h, hcfg, himem, hregs, fun a => hmem a nofun⟩

/-- Settles O19: what BL wrote is A + 1, and the jump goes to its low nine bits, all of it. -/
theorem returnThroughR14ResumesAfterCall : Obligations.ReturnThroughR14ResumesAfterCall := by
  unfold Obligations.ReturnThroughR14ResumesAfterCall
  intro s t u off24 hv h hu
  have hjump := registerJumpsUseLowNineBits u 14#4 (by decide)
  have htarget : BitVec.ofNat 9 (u.regVal 14#4 % 512) = s.pc + 1 := by
    rw [hu, regVal_link hv h, ← toNat_wordAddr_add_one, Nat.mod_eq_of_lt (s.pc + 1).isLt, BitVec.ofNat_toNat,
      BitVec.setWidth_eq]
  rwa [htarget] at hjump

/-! ### Branch offsets as signed numbers -/

theorem ofInt_toNat_wordAddr (a : WordAddr) : BitVec.ofInt 9 (a.toNat : Int) = a := by
  rw [BitVec.ofInt_natCast, BitVec.ofNat_toNat, BitVec.setWidth_eq]

theorem setWidth_nine_eq_ofInt {n : Nat} (hn : 9 ≤ n) (x : BitVec n) : x.setWidth 9 = BitVec.ofInt 9 x.toInt :=
  (BitVec.signExtend_eq_setWidth_of_le x hn).symm

/-- An integer modulo 2^n keeps its value modulo 512. -/
theorem setWidth_nine_ofInt {n : Nat} (hn : 9 ≤ n) (k : Int) : (BitVec.ofInt n k).setWidth 9 = BitVec.ofInt 9 k := by
  rw [setWidth_nine_eq_ofInt hn]
  apply BitVec.eq_of_toInt_eq
  rw [BitVec.toInt_ofInt, BitVec.toInt_ofInt, BitVec.toInt_ofInt, Int.bmod_bmod_of_dvd (Nat.pow_dvd_pow 2 hn)]

/-- A target counts from A + 2 (R140, R160), in integers modulo 512. -/
theorem target_eq_ofInt {n : Nat} (hn : 9 ≤ n) (a : WordAddr) (x : BitVec n) :
    a + 2 + x.setWidth 9 = BitVec.ofInt 9 ((a.toNat : Int) + 2 + x.toInt) := by
  rw [BitVec.ofInt_add, BitVec.ofInt_add, ofInt_toNat_wordAddr, setWidth_nine_eq_ofInt hn]
  rfl

/-- Settles O20: truncation keeps the signed reading modulo 512. -/
theorem targetsUseSignedOffsets : Obligations.TargetsUseSignedOffsets := by
  unfold Obligations.TargetsUseSignedOffsets
  exact fun a => ⟨target_eq_ofInt (by decide) a, target_eq_ofInt (by decide) a⟩

/-- The assembler's offset modulo 2^n leads back to the label, 2^n being a multiple of 512 (R91). -/
theorem target_of_labelOffset {n : Nat} (hn : 9 ≤ n) (a t : WordAddr) :
    a + 2 + (BitVec.ofInt n ((t.toNat : Int) - a.toNat - 2)).setWidth 9 = t := by
  calc a + 2 + (BitVec.ofInt n ((t.toNat : Int) - a.toNat - 2)).setWidth 9
      = BitVec.ofInt 9 (a.toNat : Int) + BitVec.ofInt 9 2 + BitVec.ofInt 9 ((t.toNat : Int) - a.toNat - 2) := by
        rw [setWidth_nine_ofInt hn, ofInt_toNat_wordAddr]
        rfl
    _ = BitVec.ofInt 9 (t.toNat : Int) := by
        rw [← BitVec.ofInt_add, ← BitVec.ofInt_add]
        congr 1
        ring
    _ = t := ofInt_toNat_wordAddr t

/-- Settles O21: both widths of offset lead to the label; equal registers take the BEQ, different ones the BNE. -/
theorem assemblerOffsetsReachTheLabel : Obligations.AssemblerOffsetsReachTheLabel := by
  unfold Obligations.AssemblerOffsetsReachTheLabel
  intro s t
  have h24 : branchTarget24 s.pc (labelOff24 s.pc t) = t := target_of_labelOffset (by decide) s.pc t
  have h16 : branchTarget16 s.pc (labelOff16 s.pc t) = t := target_of_labelOffset (by decide) s.pc t
  refine ⟨?_, fun hlink => ⟨_, exec_bl_eq_next.mpr ⟨hlink, rfl⟩, h24⟩, fun rn rm hn hm => ⟨fun heq => ?_, fun hne => ?_⟩,
    completesAt_j t s⟩
  · have h := completesAt_b (labelOff24 s.pc t) s
    rwa [h24] at h
  · have h := completesAt_of_exec_eq_branchOn (exec_beq ⟨rn, rm, labelOff16 s.pc t⟩ s) hn hm
    rwa [if_pos heq, h16] at h
  · have h := completesAt_of_exec_eq_branchOn (exec_bne ⟨rn, rm, labelOff16 s.pc t⟩ s) hn hm
    rwa [if_pos hne, h16] at h

/-! ### Loads and stores -/

/-- Settles O12: the register check passes; `accessRefusal` has the order. -/
theorem loadStoreStopsInOrder : Obligations.LoadStoreStopsInOrder := by
  unfold Obligations.LoadStoreStopsInOrder
  intro s f hn hd
  have h15 := not_mem_lsi_regs hn hd
  have hrefused (e : Refusal) (h : s.accessRefusal (s.effAddr f) = some e) :
      exec (.ldr f) s = .refused e ∧ exec (.str f) s = .refused e :=
    ⟨(unlessR15_of_not_mem h15).trans (loadWord_of_accessRefusal h _),
      (unlessR15_of_not_mem h15).trans (storeWord_of_accessRefusal h _ _)⟩
  exact ⟨fun h => hrefused _ (accessRefusal_of_misaligned h), fun h h' => hrefused _ (accessRefusal_of_outside h h'),
    fun hok hread => ⟨exec_ldr_of_readLE_none h15 hok hread, _, exec_str_eq_next.mpr ⟨h15, hok, rfl⟩⟩⟩

/-- Settles O14: the store put the register at the address, and its access passed the checks that the load's has to. -/
theorem loadAfterStoreReturnsStoredValue : Obligations.LoadAfterStoreReturnsStoredValue := by
  unfold Obligations.LoadAfterStoreReturnsStoredValue
  intro s t f g hv hstr hn hd hea
  obtain ⟨-, hok, rfl⟩ := exec_str_eq_next.mp hstr
  refine completesWriting_ldr hv (not_mem_lsi_regs hn hd) ?_ ?_ <;> rw [hea]
  · exact hok
  · exact readLE_writeLE_regVal hv s.dmem (s.effAddr f).toNat f.rd

/-- The value of a list of bytes, the first least significant. -/
def leValue (bytes : List Byte) : Nat := (bytes.zipIdx.map fun p => p.1.toNat * 256 ^ p.2).sum

theorem leValue_cons (b : Byte) (bytes : List Byte) : leValue (b :: bytes) = b.toNat + 256 * leValue bytes := by
  have hshift : (bytes.zipIdx 1).map (fun p => p.1.toNat * 256 ^ p.2) =
      bytes.zipIdx.map fun p => 256 * (p.1.toNat * 256 ^ p.2) := by
    rw [List.zipIdx_succ, List.map_map]
    exact List.map_congr_left fun p _ => by simp only [Function.comp]; ring
  rw [leValue, List.zipIdx_cons, List.map_cons, List.sum_cons, pow_zero, mul_one, hshift, List.sum_map_mul_left]
  rfl

/-- The bytes from address `a` on are those of the list. -/
def Memory.HasBytes (m : Memory) (a : Nat) (bytes : List Byte) : Prop :=
  ∀ k (h : k < bytes.length), m.read (a + k) = some bytes[k]

theorem Memory.hasBytes_cons (m : Memory) (a : Nat) (b : Byte) (bytes : List Byte) :
    m.HasBytes a (b :: bytes) ↔ m.read a = some b ∧ m.HasBytes (a + 1) bytes := by
  constructor
  · refine fun h => ⟨h 0 (by simp), fun k hk => ?_⟩
    have := h (k + 1) (by simpa using hk)
    rwa [← Nat.add_assoc, Nat.add_right_comm] at this
  · rintro ⟨hb, h⟩ k hk
    cases k with
    | zero => exact hb
    | succ k =>
      rw [← Nat.add_assoc, Nat.add_right_comm]
      exact h k (by simpa using hk)

theorem Memory.readLE_succ_eq_some {m : Memory} {a n v : Nat} :
    m.readLE a (n + 1) = some v ↔ ∃ b u, m.read a = some b ∧ m.readLE (a + 1) n = some u ∧ v = b.toNat + 256 * u := by
  cases hb : m.read a <;> cases hu : m.readLE (a + 1) n <;> simp [Memory.readLE, hb, hu, eq_comm]

/-- Settles O13, by induction on the length: the first byte has the address, and the others are a word one address further. -/
theorem wordsAreLittleEndian : Obligations.WordsAreLittleEndian := by
  unfold Obligations.WordsAreLittleEndian
  intro m a n v
  show _ ↔ ∃ bytes : List Byte, bytes.length = n ∧ m.HasBytes a bytes ∧ v = leValue bytes
  induction n generalizing a v with
  | zero =>
    constructor
    · rintro ⟨⟩
      exact ⟨[], rfl, nofun, rfl⟩
    · rintro ⟨bytes, hlen, -, rfl⟩
      rw [List.eq_nil_of_length_eq_zero hlen]
      rfl
  | succ n ih =>
    rw [Memory.readLE_succ_eq_some]
    constructor
    · rintro ⟨b, u, hb, hu, rfl⟩
      obtain ⟨bytes, rfl, hbytes, rfl⟩ := (ih (a + 1) u).mp hu
      exact ⟨b :: bytes, rfl, (m.hasBytes_cons a b bytes).mpr ⟨hb, hbytes⟩, (leValue_cons b bytes).symm⟩
    · rintro ⟨bytes, hlen, hbytes, rfl⟩
      obtain ⟨b, bytes, rfl⟩ := List.exists_cons_of_length_eq_add_one hlen
      obtain ⟨hb, hbytes⟩ := (m.hasBytes_cons a b bytes).mp hbytes
      exact ⟨b, _, hb, (ih (a + 1) _).mpr ⟨bytes, Nat.succ.inj hlen, hbytes, rfl⟩, leValue_cons b bytes⟩

end Sys2Proof.Machine
end

section
/-! The padding discipline (R200): what the checks of the program and of the run say, step by step. -/

namespace Sys2Proof.Machine

/-! ### NOPs after the control transfers -/

/-- In the canonical form, an address reads as its entry. -/
theorem lookup_eq_some_iff_mem {α : Type} {l : List (Nat × α)} (h : Rising l) {a : Nat} {v : α} :
    lookup l a = some v ↔ (a, v) ∈ l := by
  induction l with
  | nil => simp [lookup]
  | cons c rest ih =>
    obtain ⟨k, u⟩ := c
    obtain ⟨hk, hrest⟩ := List.pairwise_cons.mp h
    rw [lookup]
    split
    · subst a
      have hnot : (k, v) ∉ rest := fun hmem => Nat.lt_irrefl k (hk (k, v) hmem)
      simp [hnot, eq_comm]
    · next hne => simp [ih hrest, hne]

/-- Every entry of a program in the canonical form is a word that its address reads as. -/
theorem forall_mem_program_iff {p : Program} (hrising : Rising p) (hbound : ∀ c ∈ p, c.1 < 512) {P : WordAddr → InstrWord → Prop} :
    (∀ c ∈ p, P (BitVec.ofNat 9 c.1) c.2) ↔ ∀ a w, p.read a = some w → P a w := by
  constructor
  · intro h a w hw
    have := h _ ((lookup_eq_some_iff_mem hrising).mp hw)
    rwa [BitVec.ofNat_toNat, BitVec.setWidth_eq] at this
  · intro h c hc
    apply h
    show lookup p (BitVec.ofNat 9 c.1).toNat = _
    rw [BitVec.toNat_ofNat, Nat.mod_eq_of_lt (hbound c hc)]
    exact (lookup_eq_some_iff_mem hrising).mpr hc

theorem nopsAfter_iff (p : Program) (a : WordAddr) (n : Nat) :
    nopsAfter p a n = true ↔ ∀ k < n, p.read (a + 1 + BitVec.ofNat 9 k) = some 0xE0000000#32 := by
  induction n generalizing a with
  | zero => simp [nopsAfter]
  | succ n ih =>
    have hshift (k : Nat) : a + 1 + 1 + BitVec.ofNat 9 k = a + 1 + BitVec.ofNat 9 (k + 1) := by
      rw [BitVec.ofNat_add, BitVec.add_comm (BitVec.ofNat 9 k), ← BitVec.add_assoc]
      rfl
    simp only [nopsAfter, Bool.and_eq_true, beq_iff_eq, ih, hshift, Nat.forall_lt_succ_left]
    rw [show a + 1 + BitVec.ofNat 9 0 = a + 1 from BitVec.add_zero _]
    rfl

theorem branchPadded_iff {s : State} (h : s.Inv) (n : Nat) :
    s.branchPadded n = true ↔
      ∀ (a : WordAddr) (w : InstrWord) (i : Instr), s.imem.read a = some w → decode s.cfg.jBeqOverlap w = .ok i →
        i.isControlTransfer = true → ∀ k < n, s.imem.read (a + 1 + BitVec.ofNat 9 k) = some 0xE0000000#32 := by
  obtain ⟨-, -, -, hrising, hbound⟩ := h
  have hprogram := forall_mem_program_iff hrising hbound (P := fun a w => ∀ i, decode s.cfg.jBeqOverlap w = .ok i →
    i.isControlTransfer = true → nopsAfter s.imem a n = true)
  simp only [nopsAfter_iff] at hprogram
  rw [State.branchPadded, List.all_eq_true]
  refine Iff.trans (forall₂_congr fun c _ => ?_) (hprogram.trans (forall₂_congr fun a w => forall_comm))
  cases decode s.cfg.jBeqOverlap c.2 with
  | error e => simp
  | ok i => cases hct : i.isControlTransfer <;> simp [hct, nopsAfter_iff]

/-! ### The distance from a write to a read -/

/-- No register of `ws` is read by the instructions of the run from `s` that are within `k` steps of the one that wrote `ws`, `d` steps
before `s`. -/
def UnreadWithin (k d : Nat) (ws : List RegNum) (s : State) : Prop :=
  ∀ (m : Nat) (u : State) (j : Instr), d + m < k → s.afterSteps m = some u → u.instrAtPc = some j → ∀ r ∈ j.reads, r ∉ ws

/-- No instruction of the run from `s` reads a register that one of the `k` before it in that run wrote. -/
def ReadsKeepDistance (k : Nat) (s : State) : Prop :=
  ∀ (n m : Nat) (t u : State) (i j : Instr), s.afterSteps n = some t → t.afterSteps (m + 1) = some u → m < k →
    t.instrAtPc = some i → u.instrAtPc = some j → ∀ r ∈ j.reads, r ∉ i.writes

theorem UnreadWithin.of_step {k d : Nat} {ws : List RegNum} {s t : State} (h : UnreadWithin k d ws s) (hstep : step s = .next t) :
    UnreadWithin k (d + 1) ws t :=
  fun m u j hm hu => h (m + 1) u j (by omega) (State.afterSteps_succ_eq_some.mpr ⟨t, hstep, hu⟩)

theorem ReadsKeepDistance.of_step {k : Nat} {s t : State} (h : ReadsKeepDistance k s) (hstep : step s = .next t) :
    ReadsKeepDistance k t :=
  fun n m t' u i j ht' => h (n + 1) m t' u i j (State.afterSteps_succ_eq_some.mpr ⟨t, hstep, ht'⟩)

/-- The instruction at the pc of `s` wrote one step before the next state. -/
theorem ReadsKeepDistance.unreadWithin {k : Nat} {s t : State} {i : Instr} (h : ReadsKeepDistance k s) (hi : s.instrAtPc = some i)
    (hstep : step s = .next t) : UnreadWithin k 0 i.writes t :=
  fun m u j hm hu hj => h 0 m s u i j rfl (State.afterSteps_succ_eq_some.mpr ⟨t, hstep, hu⟩) (by omega) hi hj

/-- The check of the run from `s`, for every number of steps, where `history` lists what all the instructions before wrote. -/
def DataPadded (k : Nat) (history : List (List RegNum)) (s : State) : Prop :=
  ∀ n, dataPaddedFor k (history.take k) n s = true

theorem take_cons_take {α : Type} (k : Nat) (x : α) (l : List α) : (x :: l.take k).take k = (x :: l).take k := by
  cases k with
  | zero => rfl
  | succ k => simp [List.take_take]

/-- One instruction of the check. -/
theorem dataPaddedFor_succ_iff {k n : Nat} {history : List (List RegNum)} {s : State} :
    dataPaddedFor k (history.take k) (n + 1) s = true ↔
      ∀ i, s.instrAtPc = some i →
        (∀ r ∈ i.reads, ∀ ws ∈ history.take k, r ∉ ws) ∧
          ∀ t, step s = .next t → dataPaddedFor k ((i.writes :: history).take k) n t = true := by
  rw [dataPaddedFor]
  cases s.instrAtPc with
  | none => simp
  | some i => cases step s <;> simp [take_cons_take]

/-- One instruction of the check, and the rest of it. -/
theorem dataPadded_iff {k : Nat} {history : List (List RegNum)} {s : State} :
    DataPadded k history s ↔
      ∀ i, s.instrAtPc = some i →
        (∀ r ∈ i.reads, ∀ ws ∈ history.take k, r ∉ ws) ∧ ∀ t, step s = .next t → DataPadded k (i.writes :: history) t := by
  constructor
  · intro h i hi
    have hsucc (n : Nat) := dataPaddedFor_succ_iff.mp (h (n + 1)) i hi
    exact ⟨(hsucc 0).1, fun t hstep n => (hsucc n).2 t hstep⟩
  · intro h n
    cases n with
    | zero => rfl
    | succ n => exact dataPaddedFor_succ_iff.mpr fun i hi => ⟨(h i hi).1, fun t hstep => (h i hi).2 t hstep n⟩

theorem DataPadded.of_step {k : Nat} {history : List (List RegNum)} {s t : State} {i : Instr} (h : DataPadded k history s)
    (hi : s.instrAtPc = some i) (hstep : step s = .next t) : DataPadded k (i.writes :: history) t :=
  (dataPadded_iff.mp h i hi).2 t hstep

theorem DataPadded.exists_afterSteps {k n : Nat} {history : List (List RegNum)} {s t : State} (h : DataPadded k history s)
    (ht : s.afterSteps n = some t) : ∃ history', DataPadded k history' t := by
  induction n generalizing history s with
  | zero =>
    cases ht
    exact ⟨history, h⟩
  | succ n ih =>
    obtain ⟨s', hstep, ht⟩ := State.afterSteps_succ_eq_some.mp ht
    obtain ⟨i, hi, -⟩ := step_eq_next_iff_instrAtPc.mp hstep
    exact ih (h.of_step hi hstep) ht

/-- What the history lists at place `d` was written `d` steps before. -/
theorem DataPadded.unreadWithin {k d : Nat} {history : List (List RegNum)} {ws : List RegNum} {s : State}
    (h : DataPadded k history s) (hws : history[d]? = some ws) : UnreadWithin k d ws s := by
  intro m u j hm hu hj r hr
  induction m generalizing d history s with
  | zero =>
    cases hu
    have hmem : ws ∈ history.take k := List.mem_of_getElem? ((List.getElem?_take_of_lt hm).trans hws)
    exact (dataPadded_iff.mp h j hj).1 r hr ws hmem
  | succ m ih =>
    obtain ⟨t, hstep, hu⟩ := State.afterSteps_succ_eq_some.mp hu
    obtain ⟨i, hi, -⟩ := step_eq_next_iff_instrAtPc.mp hstep
    exact ih (d := d + 1) (h.of_step hi hstep) hws (by omega) hu

theorem DataPadded.readsKeepDistance {k : Nat} {history : List (List RegNum)} {s : State} (h : DataPadded k history s) :
    ReadsKeepDistance k s := by
  intro n m t u i j ht hu hm hi hj
  obtain ⟨history', h'⟩ := h.exists_afterSteps ht
  obtain ⟨t', hstep, hu⟩ := State.afterSteps_succ_eq_some.mp hu
  exact (h'.of_step hi hstep).unreadWithin (d := 0) rfl m u j (by omega) hu hj

/-- The check succeeds where neither the run nor what comes before it has a read too near. -/
theorem dataPadded_of_readsKeepDistance {k : Nat} {history : List (List RegNum)} {s : State} (hrun : ReadsKeepDistance k s)
    (hbefore : ∀ d ws, history[d]? = some ws → UnreadWithin k d ws s) : DataPadded k history s := by
  intro n
  induction n generalizing history s with
  | zero => rfl
  | succ n ih =>
    rw [dataPaddedFor_succ_iff]
    refine fun i hi => ⟨fun r hr ws hws => ?_, fun t hstep => ih (hrun.of_step hstep) fun d ws hd => ?_⟩
    · obtain ⟨d, hd, hget⟩ := List.mem_take_iff_getElem.mp hws
      exact hbefore d ws (List.getElem?_eq_some_iff.mpr ⟨by omega, hget⟩) 0 s i (by omega) rfl hi r hr
    · cases d with
      | zero =>
        cases hd
        exact hrun.unreadWithin hi hstep
      | succ d => exact (hbefore d ws hd).of_step hstep

/-- Settles O58: the NOPs entry by entry, the distances step by step from an empty history. -/
theorem paddedKeepsNopsAndDistance : Obligations.PaddedKeepsNopsAndDistance := by
  unfold Obligations.PaddedKeepsNopsAndDistance
  intro s kBranch kData hinv
  show (s.branchPadded kBranch = true ∧ ∀ n, dataPaddedFor kData [] n s = true) ↔ _ ∧ ReadsKeepDistance kData s
  have hempty : (∀ n, dataPaddedFor kData [] n s = true) ↔ DataPadded kData [] s := by rw [DataPadded, List.take_nil]
  rw [branchPadded_iff hinv, hempty]
  exact and_congr_right' ⟨DataPadded.readsKeepDistance, fun h => dataPadded_of_readsKeepDistance h nofun⟩

end Sys2Proof.Machine
end
